-- ==== Sys2Proof/Word.lean ====
section
/-!
DEFINITION. The number types of TXE and the widths that rule R6 (spec/00_scope.md) leaves to the
implementation. A value whose width is a parameter is a natural number, kept below 2 to that width.
-/

namespace Sys2Proof

/-- One byte of host memory, one byte on the wire (rules R40, R44). -/
abbrev Byte := BitVec 8

/-- A host memory address, of `PTR_W` bits (rule R6). -/
abbrev Addr := Nat

/-- A prefix count, of `PLEN_W` bits (rules R6, R15). -/
abbrev PLen := Nat

/-- A payload count, of `DLEN_W` bits (rules R6, R17). -/
abbrev DLen := Nat

/-- A callback identifier, of `CB_W` bits (rules R6, R18). -/
abbrev CbId := Nat

/-- The opaque callback argument, of `ARG_W` bits (rules R6, R19). -/
abbrev Arg := Nat

/-- The five widths of rule R6. -/
structure Widths where
  /-- `PTR_W` -/
  ptrW  : Nat
  /-- `PLEN_W` -/
  plenW : Nat
  /-- `DLEN_W` -/
  dlenW : Nat
  /-- `CB_W` -/
  cbW   : Nat
  /-- `ARG_W` -/
  argW  : Nat
  deriving DecidableEq, Repr

/-- The defaults of rule R6. -/
def Widths.default : Widths where
  ptrW := 16
  plenW := 8
  dlenW := 16
  cbW := 16
  argW := 16

/-- Whether a value has at most `n` bits. -/
def fits (n v : Nat) : Bool :=
  decide (v < 2 ^ n)

end Sys2Proof
end

