-- ==== Sys2Proof/Config.lean ====
section
/-!
DEFINITION. What an implementation fixes (the parameters of rule R6) and the free values: what the
spec leaves open and no statement may rest on. A free value is an opaque constant without a body.
-/

namespace Sys2Proof

/-- The implementation parameters of rule R6 (spec/00_scope.md). They stand in State as data that no step
writes, so that every statement about all states holds for every value of them (log 6). -/
structure Params where
  /-- `PTR_W`, `PLEN_W`, `DLEN_W`, `CB_W`, `ARG_W`. -/
  widths          : Widths
  /-- `P_FASTFAIL0_BLOCKS` (rule R107). -/
  fastFail0Blocks : Bool
  /-- `ADDR_BYTE` (rule R124): the operands it does not send unchanged, with the byte it sends. -/
  addrMap         : List (BitVec 8 × Byte)
  /-- Address ranges (first address, length) that are not readable host memory (rule R48). -/
  holes           : List (Nat × Nat)
  /-- Where `SELBUF` lies (rules R28, R49). -/
  selBuf          : Addr
  /-- Where `BRIGHTBUF` lies. -/
  brightBuf       : Addr
  /-- Where `DATAPFX` lies. -/
  dataPfx         : Addr
  /-- Where the bring-up payload `INIT_SEQ` lies. -/
  initSeq         : Addr
  /-- `SEL_TEMPLATE[0..5]` (rule R84). -/
  selTemplate     : List Byte
  /-- `SEL_PAGE_INDEX`, 0 to 5 (rule R84). -/
  selPageIndex    : Nat
  /-- `DATA_PREFIX[0]` (rule R85). -/
  dataPrefix      : Byte
  /-- `BRIGHT_TEMPLATE[0..3]` (rule R85). -/
  brightTemplate  : List Byte
  /-- `INIT_SEQ`, of `INIT_LEN` bytes (rule R86). -/
  initBytes       : List Byte
  deriving DecidableEq, Repr

/-- The parameters at reset. The defaults are those of rule R6; for the parameters without one the
values are those of program P3 (spec/95_test_vectors.md). DESIGN CHOICE, log 6; unsafe for a claim
about the run from reset. -/
def Params.reset : Params where
  widths := Widths.default
  fastFail0Blocks := false
  addrMap := []
  holes := []
  selBuf := 0x0020
  brightBuf := 0x0028
  dataPfx := 0x002C
  initSeq := 0x0030
  selTemplate := [0xE0#8, 0xE1#8, 0xE2#8, 0xE3#8, 0xE4#8, 0x90#8]
  selPageIndex := 5
  dataPrefix := 0xDD#8
  brightTemplate := [0xB0#8, 0xB1#8, 0xB2#8, 0x00#8]
  initBytes := [0x1A#8, 0x1B#8, 0x1C#8]

/-- How a bus command ended, known to the bus engine and read by no rule of TXE (rules R63, R129,
R207). Arbitration loss is excluded by the premise "single master" (rule R208). -/
inductive BusStatus where
  | acknowledged
  | notAcknowledged
  deriving DecidableEq, Repr, Inhabited

/-- FREE VALUE (log 7): which of several ready agents takes the next step (rules R111, R215). -/
opaque Config.turn : Nat → Nat

/-- FREE VALUE (log 7): whether the bus engine stalls for ever on a command (rules R60, R209). -/
opaque Config.busStalls : Nat → Bool

/-- FREE VALUE (log 7): how a finished bus command ended (rules R63, R207). -/
opaque Config.busStatus : Nat → BusStatus

/-- FREE VALUE (log 26): the byte patched into the select-page command for a page of 256 or more, for
which rules R84 and R176 state no byte. -/
opaque Config.widePage : Nat → Byte

end Sys2Proof
end

