-- ==== Sys2Proof/Syntax.lean ====
section
/-!
DEFINITION. The operations of TXE and of its clients, one constructor of `Instr` per row of
spec/opcode_table.json, and the words the ports carry (spec/30_encoding.md, rules R70 to R88).
-/

namespace Sys2Proof

/-- The five word formats of rule R70, and the pseudo-operations of rule R88, which the source gives
no word of their own (DESIGN CHOICE, log 12: the model's program lines give them one). -/
inductive Format where
  | st | sub | cmd | cpl | host | pseudo
  deriving DecidableEq, Repr

/-- The eight operands of a submission, in the order of rule R73. -/
structure Submission where
  address  : BitVec 8
  pfx      : Addr
  pfxLen   : PLen
  data     : Addr
  dataLen  : DLen
  cb       : CbId
  arg      : Arg
  fastFail : Bool
  deriving DecidableEq, Repr

/-- Every operation of the opcode table. -/
inductive Instr where
  /-- EV.IDLE, rule R121. -/
  | evIdle
  /-- EV.STOP, rule R122. -/
  | evStop
  /-- EV.SLAVEADDRESS, rule R124. -/
  | evSlaveAddress
  /-- EV.WRITEPREFIX, rule R125. -/
  | evWritePrefix
  /-- EV.WRITEBYTE, rule R126. -/
  | evWriteByte
  /-- SUBMIT, a word of format SUB, rules R100 to R112. -/
  | submit (q : Submission)
  /-- BUS.NONE, rule R76. -/
  | busNone
  /-- BUS.START, rules R55, R56. -/
  | busStart
  /-- BUS.WRITE, rules R55, R56. -/
  | busWrite (b : Byte)
  /-- BUS.STOP, rules R55, R57. -/
  | busStop
  /-- COMPLETE, rule R150: a completion word whose `cb` is none of the four client callbacks. -/
  | complete (cb : CbId) (arg : Arg)
  /-- CB.NOP, rule R186. -/
  | cbNop (arg : Arg)
  /-- CB.RELEASE, rule R185. -/
  | cbRelease (d : Arg)
  /-- CB.SELECT_DONE, rule R181. -/
  | cbSelectDone (d : Arg)
  /-- CB.XFER_DONE, rule R182. -/
  | cbXferDone (d : Arg)
  /-- SUBMIT as a host operation: id 0x0 followed by one SUB word, rule R83. -/
  | submitHost (q : Submission)
  /-- LOCK.ACQUIRE, rule R171. -/
  | lockAcquire (d : Arg)
  /-- LOCK.TRY, rule R172. -/
  | lockTry (d : Arg)
  /-- LOCK.RELEASE, rule R173. -/
  | lockRelease (d : Arg)
  /-- DISPLAY.INIT, rule R175, operands in the order of rule R87. -/
  | displayInit (d : Arg) (width height : Nat) (fb : Addr) (freq : Nat) (busAddr : BitVec 8)
  /-- REFRESH.START, rule R180. -/
  | refreshStart (d : Arg)
  /-- BRIGHTNESS.SET, rule R184. -/
  | brightnessSet (d : Arg) (level : Byte)
  /-- SUBMIT.SPIN, rule R88. -/
  | submitSpin (q : Submission)
  /-- SUBMIT.CMD, rule R88. -/
  | submitCmd (address : BitVec 8) (buf : Addr) (n : PLen) (cb : CbId) (arg : Arg)
  /-- SUBMIT.PAGE, rule R88. -/
  | submitPage (address : BitVec 8) (pfx : Addr) (buf : Addr) (n : DLen) (cb : CbId) (arg : Arg)
  deriving DecidableEq, Repr

/-- The format column of the opcode table. -/
def Instr.format : Instr → Format
  | .evIdle | .evStop | .evSlaveAddress | .evWritePrefix | .evWriteByte => .st
  | .submit _ => .sub
  | .busNone | .busStart | .busWrite _ | .busStop => .cmd
  | .complete _ _ | .cbNop _ | .cbRelease _ | .cbSelectDone _ | .cbXferDone _ => .cpl
  | .submitHost _ | .lockAcquire _ | .lockTry _ | .lockRelease _ | .displayInit _ _ _ _ _ _
  | .refreshStart _ | .brightnessSet _ _ => .host
  | .submitSpin _ | .submitCmd _ _ _ _ _ | .submitPage _ _ _ _ _ _ => .pseudo

/-- A word on one of the ports (rule R70). The length of a SUB and of a CPL word depends on the widths,
so that such a word is a number, whose length the decoder checks. A HOST line is its 4-bit id with the
operands beside it in the order of rule R87, SUBMIT's operands being one SUB word (rule R83); a
pseudo-operation has a 2-bit number instead of the id (DESIGN CHOICE, log 12). -/
inductive PortWord where
  | st (w : BitVec 3)
  | sub (w : Nat)
  | cmd (w : BitVec 10)
  | cpl (w : Nat)
  | host (id : BitVec 4) (ops : List Nat)
  | pseudo (k : BitVec 2) (ops : List Nat)
  deriving DecidableEq, Repr

/-- The format a word belongs to. -/
def PortWord.format : PortWord → Format
  | .st _ => .st
  | .sub _ => .sub
  | .cmd _ => .cmd
  | .cpl _ => .cpl
  | .host _ _ => .host
  | .pseudo _ _ => .pseudo

end Sys2Proof
end

