-- ==== Sys2Proof/Decode.lean ====
section
/-!
DEFINITION. The decoder of the port words for given widths, total, rejecting by name
(spec/30_encoding.md, rules R70 to R84), the encoder, and the reading of a bare table word.
-/

namespace Sys2Proof

/-- Why a word spells no operation (rule R81). -/
inductive Reject where
  /-- format ST, codes 5, 6, 7 (rule R72) -/
  | reservedState
  /-- format SUB, bits 7:1 not zero (rules R73, R81) -/
  | reservedSubBits
  /-- a SUB or CPL word of more bits than its port's words have (rules R70, R82) -/
  | wrongLength
  /-- format HOST, ids 7 to 15 (rule R83) -/
  | reservedHostId
  /-- the model's pseudo-operation number 3 (log 12) -/
  | reservedPseudo
  /-- a HOST or pseudo line with too few or too many operands (rule R87) -/
  | operandCount
  /-- an operand of a HOST or pseudo line that does not fit its width (rules R28, R73, R184) -/
  | operandWidth
  deriving DecidableEq, Repr

/-- `w[lo + n - 1 : lo]` (rule R7). -/
def slice (lo n w : Nat) : Nat :=
  w / 2 ^ lo % 2 ^ n

/-- `{a, b}` for a `b` of `n` bits (rule R7). -/
def cat (n a b : Nat) : Nat :=
  a * 2 ^ n + b

/-- The length of a SUB word in bits (rules R70, R73): 104 at the default widths. -/
def subLength (W : Widths) : Nat :=
  8 + (W.argW + (W.cbW + (W.dlenW + (W.ptrW + (W.plenW + (W.ptrW + 8))))))

/-- Format SUB, rule R73: first operand in the most significant bits, the low byte seven reserved bits
and `ff`. -/
def encodeSub (W : Widths) (q : Submission) : Nat :=
  cat 8
    (cat W.argW
      (cat W.cbW
        (cat W.dlenW
          (cat W.ptrW (cat W.plenW (cat W.ptrW q.address.toNat q.pfx) q.pfxLen) q.data)
          q.dataLen)
        q.cb)
      q.arg)
    q.fastFail.toNat

/-- Format SUB read back; the reserved bits 7:1 must be zero (rule R73). -/
def decodeSub (W : Widths) (w : Nat) : Except Reject Submission :=
  if w < 2 ^ subLength W then
    if slice 1 7 w = 0 then
      .ok
        { address  := BitVec.ofNat 8 (slice (8 + (W.argW + (W.cbW + (W.dlenW + (W.ptrW + (W.plenW + W.ptrW)))))) 8 w)
          pfx      := slice (8 + (W.argW + (W.cbW + (W.dlenW + (W.ptrW + W.plenW))))) W.ptrW w
          pfxLen   := slice (8 + (W.argW + (W.cbW + (W.dlenW + W.ptrW)))) W.plenW w
          data     := slice (8 + (W.argW + (W.cbW + W.dlenW))) W.ptrW w
          dataLen  := slice (8 + (W.argW + W.cbW)) W.dlenW w
          cb       := slice (8 + W.argW) W.cbW w
          arg      := slice 8 W.argW w
          fastFail := slice 0 1 w == 1 }
    else .error .reservedSubBits
  else .error .wrongLength

/-- Format ST, rule R71. -/
def decodeSt (w : BitVec 3) : Except Reject Instr :=
  if w = 0#3 then .ok .evIdle
  else if w = 1#3 then .ok .evStop
  else if w = 2#3 then .ok .evSlaveAddress
  else if w = 3#3 then .ok .evWritePrefix
  else if w = 4#3 then .ok .evWriteByte
  else .error .reservedState

/-- The command START as a CMD word (rule R76). -/
def startWord : BitVec 10 := 0x100#10

/-- The command WRITE with its byte as a CMD word (rule R76). -/
def writeWord (b : Byte) : BitVec 10 := 2#2 ++ b

/-- The command STOP as a CMD word (rule R76). -/
def stopWord : BitVec 10 := 0x300#10

/-- Format CMD, rule R76: the two `op` bits select (DEDUCED, log 14: `wdata` is not looked at where
the command has none, as the table's masks say). -/
def decodeCmd (w : BitVec 10) : Instr :=
  if w.extractLsb' 8 2 = 0#2 then .busNone
  else if w.extractLsb' 8 2 = 1#2 then .busStart
  else if w.extractLsb' 8 2 = 2#2 then .busWrite (w.extractLsb' 0 8)
  else .busStop

/-- A completion word (rule R77). -/
def cplWord (W : Widths) (cb : CbId) (arg : Arg) : Nat :=
  cat W.argW cb arg

/-- The operation of a completion word's two fields (rule R77): `cb` selects the routine. -/
def completionOf (cb : CbId) (arg : Arg) : Instr :=
  if cb = 1 then .cbNop arg
  else if cb = 2 then .cbRelease arg
  else if cb = 3 then .cbSelectDone arg
  else if cb = 4 then .cbXferDone arg
  else .complete cb arg

/-- Format CPL, rule R77. -/
def decodeCpl (W : Widths) (w : Nat) : Except Reject Instr :=
  if w < 2 ^ (W.argW + W.cbW) then .ok (completionOf (slice W.argW W.cbW w) (slice 0 W.argW w))
  else .error .wrongLength

/-- An operation whose operands must fit. -/
def checked (ok : Bool) (i : Instr) : Except Reject Instr :=
  if ok then .ok i else .error .operandWidth

/-- A HOST line: rule R83's ids, with the operands of rule R87 beside the id (log 12); SUBMIT is followed
by one SUB word (rule R83). A display is named by an `ARG_W`-bit reference (decision D22); sizes and the
frequency are natural numbers (rules R28, R220), and what rule R175 admits of them is DISPLAY.INIT's. -/
def decodeHost (W : Widths) (id : BitVec 4) (ops : List Nat) : Except Reject Instr :=
  if id = 0#4 then
    match ops with
    | [w] => (decodeSub W w).map .submitHost
    | _ => .error .operandCount
  else if id = 1#4 then
    match ops with
    | [d] => checked (fits W.argW d) (.lockAcquire d)
    | _ => .error .operandCount
  else if id = 2#4 then
    match ops with
    | [d] => checked (fits W.argW d) (.lockTry d)
    | _ => .error .operandCount
  else if id = 3#4 then
    match ops with
    | [d] => checked (fits W.argW d) (.lockRelease d)
    | _ => .error .operandCount
  else if id = 4#4 then
    match ops with
    | [d, width, height, fb, freq, busAddr] =>
      checked (fits W.argW d && fits 8 busAddr) (.displayInit d width height fb freq (BitVec.ofNat 8 busAddr))
    | _ => .error .operandCount
  else if id = 5#4 then
    match ops with
    | [d] => checked (fits W.argW d) (.refreshStart d)
    | _ => .error .operandCount
  else if id = 6#4 then
    match ops with
    | [d, level] => checked (fits W.argW d && fits 8 level) (.brightnessSet d (BitVec.ofNat 8 level))
    | _ => .error .operandCount
  else .error .reservedHostId

/-- Whether the eight operands of a submission fit the fields of rule R73. -/
def operandsFit (W : Widths) (address pfx pfxLen data dataLen cb arg : Nat) : Bool :=
  fits 8 address && fits W.ptrW pfx && fits W.plenW pfxLen && fits W.ptrW data && fits W.dlenW dataLen &&
    fits W.cbW cb && fits W.argW arg

/-- A pseudo-operation line: rule R88's operands in the order of rule R88 (numbers: DESIGN CHOICE,
log 12). -/
def decodePseudo (W : Widths) (k : BitVec 2) (ops : List Nat) : Except Reject Instr :=
  if k = 0#2 then
    match ops with
    | [address, pfx, pfxLen, data, dataLen, cb, arg, ff] =>
      checked (operandsFit W address pfx pfxLen data dataLen cb arg && fits 1 ff)
        (.submitSpin { address := BitVec.ofNat 8 address, pfx := pfx, pfxLen := pfxLen, data := data,
                       dataLen := dataLen, cb := cb, arg := arg, fastFail := ff == 1 })
    | _ => .error .operandCount
  else if k = 1#2 then
    match ops with
    | [address, buf, n, cb, arg] =>
      checked (operandsFit W address buf n 0 0 cb arg) (.submitCmd (BitVec.ofNat 8 address) buf n cb arg)
    | _ => .error .operandCount
  else if k = 2#2 then
    match ops with
    | [address, pfx, buf, n, cb, arg] =>
      checked (operandsFit W address pfx 1 buf n cb arg) (.submitPage (BitVec.ofNat 8 address) pfx buf n cb arg)
    | _ => .error .operandCount
  else .error .reservedPseudo

/-- The operation a port word spells at given widths, or the reason why it spells none. -/
def decode (W : Widths) : PortWord → Except Reject Instr
  | .st w => decodeSt w
  | .sub w => (decodeSub W w).map .submit
  | .cmd w => .ok (decodeCmd w)
  | .cpl w => decodeCpl W w
  | .host id ops => decodeHost W id ops
  | .pseudo k ops => decodePseudo W k ops

/-- The word of an operation at given widths, from the same tables. -/
def encode (W : Widths) : Instr → PortWord
  | .evIdle => .st 0#3
  | .evStop => .st 1#3
  | .evSlaveAddress => .st 2#3
  | .evWritePrefix => .st 3#3
  | .evWriteByte => .st 4#3
  | .submit q => .sub (encodeSub W q)
  | .busNone => .cmd 0#10
  | .busStart => .cmd startWord
  | .busWrite b => .cmd (writeWord b)
  | .busStop => .cmd stopWord
  | .complete cb arg => .cpl (cplWord W cb arg)
  | .cbNop arg => .cpl (cplWord W 1 arg)
  | .cbRelease d => .cpl (cplWord W 2 d)
  | .cbSelectDone d => .cpl (cplWord W 3 d)
  | .cbXferDone d => .cpl (cplWord W 4 d)
  | .submitHost q => .host 0#4 [encodeSub W q]
  | .lockAcquire d => .host 1#4 [d]
  | .lockTry d => .host 2#4 [d]
  | .lockRelease d => .host 3#4 [d]
  | .displayInit d width height fb freq busAddr => .host 4#4 [d, width, height, fb, freq, busAddr.toNat]
  | .refreshStart d => .host 5#4 [d]
  | .brightnessSet d level => .host 6#4 [d, level.toNat]
  | .submitSpin q =>
    .pseudo 0#2 [q.address.toNat, q.pfx, q.pfxLen, q.data, q.dataLen, q.cb, q.arg, q.fastFail.toNat]
  | .submitCmd address buf n cb arg => .pseudo 1#2 [address.toNat, buf, n, cb, arg]
  | .submitPage address pfx buf n cb arg => .pseudo 2#2 [address.toNat, pfx, buf, n, cb, arg]

/-- How many operands stand beside a HOST id (rule R87); the one SUB word counts as one. -/
def operandCount (id : BitVec 4) : Nat :=
  if id = 4#4 then 6
  else if id = 6#4 then 2
  else 1

/-- A HOST line with operands of zeros. -/
def hostZeros (id : BitVec 4) : PortWord :=
  .host id (List.replicate (operandCount id) 0)

/-- The port word of a bare table word of `nbits` bits. The table's words carry no port, so the
length chooses, at the default widths for which the table is written: 104 bits are format SUB, 32 CPL,
10 (16 in whole bytes) CMD. Formats ST (3 bits) and HOST (4 bits) both take one byte: there the word is
read as the first format of rule R70's list that gives it a meaning, so 0 to 4 are state codes and the
others HOST ids with operands of zeros (DESIGN CHOICE, log 15). A length of exactly 3, 4 or 10 bits
names its format. -/
def tableWord (nbits w : Nat) : Option PortWord :=
  if nbits = 104 then (if w < 2 ^ 104 then some (.sub w) else none)
  else if nbits = 32 then (if w < 2 ^ 32 then some (.cpl w) else none)
  else if nbits = 16 ∨ nbits = 10 then (if w < 2 ^ 10 then some (.cmd (BitVec.ofNat 10 w)) else none)
  else if nbits = 3 then (if w < 8 then some (.st (BitVec.ofNat 3 w)) else none)
  else if nbits = 4 then (if w < 16 then some (hostZeros (BitVec.ofNat 4 w)) else none)
  else if nbits = 8 then
    if w < 5 then some (.st (BitVec.ofNat 3 w))
    else if w < 16 then some (hostZeros (BitVec.ofNat 4 w))
    else none
  else none

/-- The operation the decoder reads from a bare table word, at the default widths. -/
def decodeTableWord (nbits w : Nat) : Option Instr :=
  match tableWord nbits w with
  | none => none
  | some pw => (decode Widths.default pw).toOption

end Sys2Proof
end

