-- ==== Sys2Proof/Machine/State.lean ====
section
/-!
DEFINITION. The state of the machine as plain data (spec/10_state.md), the reasons a step can stop,
and the state after reset (rules R32, R230).
-/

namespace Sys2Proof.Machine

/-- The sequencer state, rule R10. -/
inductive BusState where
  | idle | stop | slaveAddress | writePrefix | writeByte
  deriving DecidableEq, Repr

/-- The request registers, rules R12 to R20. -/
structure Req where
  address   : BitVec 8
  prefixPtr : Addr
  prefixRem : PLen
  dataPtr   : Addr
  dataRem   : DLen
  cb        : CbId
  cbArg     : Arg
  fastFail  : Bool
  deriving DecidableEq, Repr

/-- The executing host context, rules R23, R216. -/
inductive Ctx where
  | main | handler
  deriving DecidableEq, Repr

/-- A wire symbol: `S`, `W(b)`, `P` (rule R8). -/
inductive Sym where
  | start | write (b : Byte) | stop
  deriving DecidableEq, Repr

/-- An entry `C(cb, arg)` of the completion trace (rule R8). -/
structure Completion where
  cb  : CbId
  arg : Arg
  deriving DecidableEq, Repr

/-- The outcomes of rule R89. Bounds and InvalidParameter are never produced (rule R201). -/
inductive Result where
  | ok | busy | bounds | invalidParameter
  deriving DecidableEq, Repr

/-- A display record, rule R28. `lock`: true = held (rule R170). -/
structure Display where
  width     : Nat
  height    : Nat
  pageCount : Nat
  busAddr   : BitVec 8
  cursor    : Nat
  fb        : Addr
  lock      : Bool
  deriving DecidableEq, Repr

/-- One assignment of host code to client state (rules R28, R151). Which values an assignment may carry is
`DisplayUpdate.fits`. -/
inductive DisplayUpdate where
  | width (n : Nat)
  | height (n : Nat)
  | pageCount (n : Nat)
  | busAddr (a : BitVec 8)
  | cursor (n : Nat)
  /-- `d.cursor <- d.cursor + 1`, as rule R182 advances it -/
  | advanceCursor
  | fb (a : Addr)
  | lock (held : Bool)
  deriving DecidableEq, Repr

/-- One line of a client procedure that is left to run where main-line can be preempted inside the
procedure (rule R211; log 16). Its operands are read when it runs. -/
inductive Part where
  /-- `configure the bus engine for frequency freq` (rule R175) -/
  | setFreq (freq : Nat)
  /-- `SUBMIT(busaddr, INIT_SEQ, INIT_LEN, 0, 0, CB.NOP, d, 1)` (rule R175) -/
  | initSubmit (d : Arg) (busAddr : BitVec 8)
  /-- the `MemWrite` of `SelectPage(d)` (rule R176) -/
  | patchSelect (d : Arg)
  /-- the `SUBMIT.SPIN` of `SelectPage(d)` (rule R176) -/
  | submitSelect (d : Arg)
  /-- `MemWrite(BRIGHTBUF + 3, 1, level)` (rule R184) -/
  | patchBright (level : Byte)
  /-- the `SUBMIT.SPIN` of BRIGHTNESS.SET (rule R184) -/
  | submitBright (d : Arg)
  deriving DecidableEq, Repr

/-- One line of host code (rule R87). -/
inductive HostAct where
  /-- a word of format SUB, HOST or PSEUDO, or, in a handler window, a CPL word -/
  | line (w : PortWord)
  /-- the same, its display operand replaced by the argument of the callback invocation it stands in -/
  | lineOnArg (w : PortWord)
  /-- `MEMW addr, byte`: an ordinary host store -/
  | memw (a : Addr) (b : Byte)
  /-- an assignment to the client state of a display (rule R151) -/
  | update (d : Arg) (u : DisplayUpdate)
  /-- the same for the display that the argument of the callback invocation names -/
  | updateOnArg (u : DisplayUpdate)
  /-- what is left of a client procedure -/
  | part (p : Part)
  deriving DecidableEq, Repr

/-- A CMD word handed to the bus engine, and whether the engine stalls on it for ever (rule R60). -/
structure Command where
  word   : BitVec 10
  stalls : Bool
  deriving DecidableEq, Repr

/-- Why one run of a submission breaks the caller contract (rule R105 clauses 1 and 2, rule R48). -/
inductive RunFlaw where
  /-- a null reference with a non-zero count -/
  | countWithoutReference
  /-- a non-null reference with a zero count -/
  | referenceWithoutCount
  /-- the range passes the top of the address space -/
  | wraps
  /-- a byte of the range is not readable host memory -/
  | unreadable
  deriving DecidableEq, Repr

/-- Why a submission is ill-formed (rule R105). -/
inductive SubmitFlaw where
  | ofPrefix (f : RunFlaw)
  | ofData (f : RunFlaw)
  /-- a count, the identifier or the argument does not fit its field of a SUB word (rules R6, R73) -/
  | tooWide
  /-- `onComplete = NONE` (clause 3) -/
  | noneCallback
  /-- `onComplete` names no host routine (clause 3) -/
  | notARoutine
  deriving DecidableEq, Repr

/-- Why the machine stops with a fault. -/
inductive Fault where
  /-- Raised when `NONE` is invoked: by EV.IDLE, EV.STOP and COMPLETE while `req.cb` holds no routine,
  which is so only before the first accepted SUBMIT (rules R121 (b), R32, U2, vector V27). Safe: the
  spec itself says that a model takes the step as a fault. -/
  | noCallback
  /-- Raised by a line MEMW whose address has more than `PTR_W` bits: no byte of host memory has it
  (rules R6, R40; log 25). Safe: the model stops where the spec gives no byte. -/
  | noSuchAddress
  deriving DecidableEq, Repr

/-- Why the machine gives an input no meaning (`refuse` of rule R8). -/
inductive Refusal where
  /-- Raised by no arm: an instruction without a meaning would be refused by name. Safe. -/
  | notModelled (mnemonic : String)
  /-- Raised by a step that fetches a word which spells no operation (rule R81). Safe. -/
  | badWord (why : Reject)
  /-- Raised by SUBMIT and every operation that submits, when the request breaks the caller contract
  of rule R105 (U3). Safe: the spec gives such a call no meaning. -/
  | illFormedSubmission (why : SubmitFlaw)
  /-- Raised by DISPLAY.INIT outside the admitted sizes of rule R175 (U9). Safe: the spec refuses. -/
  | inadmissibleDisplay
  /-- Raised by an event step or a COMPLETE word whose callback identifier names no host routine
  (U3). Safe: an admitted submission never loads one. -/
  | notARoutine
  /-- Raised by a step that finds, among the lines of host code, a word its port does not carry: an
  ST or a CMD word, or a CPL word outside a handler window (rules R31, R70). Safe. -/
  | wrongPort
  /-- Raised by a step that finds a line on the callback's argument outside a callback. Safe. -/
  | noArgument
  /-- Raised by a step that finds an assignment to a display record of a reference with more than `ARG_W`
  bits or of a frame buffer address with more than `PTR_W` bits, which the record cannot hold (rule R28;
  log 29). Safe: the model stops where the spec names no such value. -/
  | wideAssignment
  deriving DecidableEq, Repr

/-- The state of the machine. INVENTORY.md lists each field with its rule and its reset value. -/
structure State where
  /-- the parameters, written by no step (rule R6) -/
  par        : Params
  /-- rule R10 -/
  state      : BusState
  /-- rule R12 -/
  req        : Req
  /-- `ev_pending`, rule R22 -/
  evPending  : Bool
  /-- rule R23 -/
  ctx        : Ctx
  /-- the last outcome SUBMIT, LOCK.TRY or DISPLAY.INIT returned (rules R101, R201; log 8) -/
  answer     : Option Result
  /-- the display records by reference (rule R28); canonical form `Displays.wf` -/
  displays   : List (Nat × Display)
  /-- host memory (rule R40); canonical form `Memory.wf` -/
  mem        : List Host.Cell
  /-- the lines main-line has still to run (log 2) -/
  main       : List HostAct
  /-- the lines the running callback has still to run (rule R150; log 2) -/
  todo       : List HostAct
  /-- the host's own callback table (rules R77, R150; log 2) -/
  routines   : List (CbId × List HostAct)
  /-- the commands the bus engine has still to perform, oldest first (rules R55, R59) -/
  cmdq       : List Command
  /-- how the last finished command ended (rule R63) -/
  status     : BusStatus
  /-- the frequency handed to the bus engine (rule R220) -/
  busFreq    : Nat
  /-- ghost: the wire trace of rule R8, symbols as TXE commands them -/
  wireTrace  : List Sym
  /-- ghost: the completion trace of rule R8 -/
  complTrace : List Completion
  /-- ghost of the model: symbols as the bus engine performs them (rule R55; log 11) -/
  wires      : List Sym
  /-- ghost of the model: the addresses TXE has read, in order (rule R43; log 11) -/
  readTrace  : List Nat
  /-- counter of the free values read so far (log 7) -/
  freeIx     : Nat
  deriving DecidableEq, Repr

/-- The request registers at reset. Rule R32 gives no value; zero is the model's (DESIGN CHOICE,
log 3; unsafe but for `cb`, where 0 is `NONE`, so that the read rule R121 (b) forbids faults). -/
def Req.reset : Req where
  address := 0#8
  prefixPtr := 0
  prefixRem := 0
  dataPtr := 0
  dataRem := 0
  cb := 0
  cbArg := 0
  fastFail := false

/-- A display record that DISPLAY.INIT has not filled. Rule R32 gives no value; zero and a free lock
are the model's (DESIGN CHOICE, log 5; unsafe). -/
def Display.reset : Display where
  width := 0
  height := 0
  pageCount := 0
  busAddr := 0#8
  cursor := 0
  fb := 0
  lock := false

/-- The machine right after reset (rules R32, R230): Idle, no event pending, context Main, traces
empty, no command outstanding; no host program is loaded (log 2). -/
def State.reset : State where
  par := Params.reset
  state := .idle
  req := Req.reset
  evPending := false
  ctx := .main
  answer := none
  displays := []
  mem := []
  main := []
  todo := []
  routines := []
  cmdq := []
  status := .acknowledged
  busFreq := 0
  wireTrace := []
  complTrace := []
  wires := []
  readTrace := []
  freeIx := 0

end Sys2Proof.Machine
end

