-- ==== Sys2Proof/Machine/Flags.lean ====
section
/-!
DEFINITION. What plays the part of flags (rule R24: TXE has no condition codes): the outcome codes,
the `accepted` bit, the codes of `state`, and which commands owe an event.
-/

namespace Sys2Proof.Machine

/-- The outcome codes of rule R89. -/
def resultCode : Result → Nat
  | .ok => 0
  | .busy => 1
  | .bounds => 2
  | .invalidParameter => 3

/-- The `accepted` bit of SUBMIT: 1 = Ok, 0 = Busy (rules R73, R89). -/
def acceptedBit (r : Result) : BitVec 1 :=
  if r = .ok then 1#1 else 0#1

/-- The code of a sequencer state (rules R10, R71). -/
def stateCode : BusState → BitVec 3
  | .idle => 0#3
  | .stop => 1#3
  | .slaveAddress => 2#3
  | .writePrefix => 3#3
  | .writeByte => 4#3

/-- The sequencer state of a code; 5, 6 and 7 are reserved (rule R72). -/
def stateOfCode (w : BitVec 3) : Option BusState :=
  if w = 0#3 then some .idle
  else if w = 1#3 then some .stop
  else if w = 2#3 then some .slaveAddress
  else if w = 3#3 then some .writePrefix
  else if w = 4#3 then some .writeByte
  else none

/-- Whether a CMD word owes an event: START and WRITE do (rule R56), STOP does not (rule R57). -/
def owesEvent (w : BitVec 10) : Bool :=
  w.extractLsb' 8 2 == 1#2 || w.extractLsb' 8 2 == 2#2

/-- The wire symbol of a CMD word (rule R76). -/
def symOf (w : BitVec 10) : Option Sym :=
  if w.extractLsb' 8 2 = 0#2 then none
  else if w.extractLsb' 8 2 = 1#2 then some .start
  else if w.extractLsb' 8 2 = 2#2 then some (.write (w.extractLsb' 0 8))
  else some .stop

end Sys2Proof.Machine
end

