-- ==== Sys2Proof/Machine/Memory.lean ====
section
/-!
DEFINITION. Host memory and the display records as lists of (key, value) pairs in one canonical form:
keys strictly rising, no entry equal to what an unlisted key reads as (spec/20_memory.md).
-/

namespace Sys2Proof.Machine

namespace Cells

/-- The value at a key: the listed one, else `dflt` of the key. -/
def get {α : Type} (dflt : Nat → α) : List (Nat × α) → Nat → α
  | [], k => dflt k
  | (k', v) :: m, k => if k' = k then v else get dflt m k

/-- The list without the entries at a key. -/
def erase {α : Type} : List (Nat × α) → Nat → List (Nat × α)
  | [], _ => []
  | (k', v) :: m, k => if k' = k then erase m k else (k', v) :: erase m k

/-- The list with an entry put before the first greater key. -/
def insert {α : Type} : List (Nat × α) → Nat → α → List (Nat × α)
  | [], k, v => [(k, v)]
  | (k', v') :: m, k, v => if k < k' then (k, v) :: (k', v') :: m else (k', v') :: insert m k v

/-- The list after a write; writing what an unlisted key reads as removes the entry. -/
def put {α : Type} [DecidableEq α] (dflt : Nat → α) (m : List (Nat × α)) (k : Nat) (v : α) : List (Nat × α) :=
  if v = dflt k then erase m k else insert (erase m k) k v

/-- Every key of the list is greater than `k`. -/
def above {α : Type} (k : Nat) : List (Nat × α) → Bool
  | [] => true
  | (k', _) :: m => decide (k < k') && above k m

/-- The canonical form. -/
def wf {α : Type} [DecidableEq α] (dflt : Nat → α) : List (Nat × α) → Bool
  | [] => true
  | (k, v) :: m => above k m && decide (v ≠ dflt k) && wf dflt m

end Cells

namespace Memory

/-- The bytes of a buffer at a base address, if the address lies in it. -/
def inBuffer (base : Addr) (bytes : List Byte) (a : Nat) : Option Byte :=
  if base ≤ a then bytes[a - base]? else none

/-- What an unlisted address reads as: the client buffers hold their templates from program load
(rule R32); every other byte reads as 00 (DESIGN CHOICE, log 4; unsafe). -/
def unlisted (p : Params) (a : Nat) : Byte :=
  (inBuffer p.selBuf p.selTemplate a
    <|> inBuffer p.brightBuf p.brightTemplate a
    <|> inBuffer p.dataPfx [p.dataPrefix] a
    <|> inBuffer p.initSeq p.initBytes a).getD 0#8

/-- A read of one byte (rule R44). -/
def read (p : Params) (m : List Host.Cell) (a : Addr) : Byte :=
  Cells.get (unlisted p) m a

/-- A write of one byte. -/
def write (p : Params) (m : List Host.Cell) (a : Addr) (b : Byte) : List Host.Cell :=
  Cells.put (unlisted p) m a b

/-- The canonical form of memory: rising addresses of at most `PTR_W` bits, none equal to its unlisted byte. -/
def wf (p : Params) (m : List Host.Cell) : Bool :=
  Cells.wf (unlisted p) m && m.all (fun c => fits p.widths.ptrW c.1)

end Memory

namespace Displays

/-- The record of a display (rule R28). -/
def get (m : List (Nat × Display)) (d : Arg) : Display :=
  Cells.get (fun _ => Display.reset) m d

/-- The records after one is written. -/
def put (m : List (Nat × Display)) (d : Arg) (r : Display) : List (Nat × Display) :=
  Cells.put (fun _ => Display.reset) m d r

/-- The canonical form of the records. -/
def wf (m : List (Nat × Display)) : Bool :=
  Cells.wf (fun _ => Display.reset) m

end Displays

end Sys2Proof.Machine
end

