-- ==== Sys2Proof/WellFormed.lean ====
section
/-!
DEFINITION. Which operations are well-formed as syntax: the operands fit their fields, and meet the
clauses of the caller contract that the operands alone decide (rule R105, rule R175, rule R77); and
which parameters rule R6 admits.
-/

namespace Sys2Proof

/-- The constraints of rule R6 on the widths; `CB_W` also holds the identifiers 1 to 4 that rule R77 gives
the client callbacks (DEDUCED, log 1). -/
def Widths.wf (W : Widths) : Bool :=
  decide (1 ≤ W.ptrW) && decide (3 ≤ W.plenW) && decide (1 ≤ W.dlenW) && decide (3 ≤ W.cbW)

/-- One run of a submission (rule R105 clauses 1 and 2, without readability, which depends on the
host's memory): absent as (null, 0), or present with a non-null reference and no wrap. -/
def runWf (ptrW ptr len : Nat) : Bool :=
  (ptr == 0 && len == 0) || (ptr != 0 && len != 0 && decide (ptr + len ≤ 2 ^ ptrW))

/-- The counts, the identifier and the argument fit their fields (rule R73); that the references do
follows from `runWf`. -/
def Submission.fits (W : Widths) (q : Submission) : Bool :=
  Sys2Proof.fits W.plenW q.pfxLen && Sys2Proof.fits W.dlenW q.dataLen && Sys2Proof.fits W.cbW q.cb &&
    Sys2Proof.fits W.argW q.arg

/-- The operand clauses of rule R105. -/
def Submission.wf (W : Widths) (q : Submission) : Bool :=
  runWf W.ptrW q.pfx q.pfxLen && runWf W.ptrW q.data q.dataLen && q.cb != 0 && q.fits W

/-- The admitted sizes of rule R175. -/
def displayWf (ptrW width height fb : Nat) : Bool :=
  height % 8 == 0 && decide (8 ≤ height) && decide (height ≤ 64) && decide (1 ≤ width)
    && decide (fb + width * (height / 8) ≤ 2 ^ ptrW)

/-- The four identifiers rule R77 gives to the client callbacks. -/
def isClientCb (cb : CbId) : Bool :=
  cb == 1 || cb == 2 || cb == 3 || cb == 4

/-- SUBMIT.CMD's expansion: a prefix-only submission (rule R88). -/
def cmdSubmission (address : BitVec 8) (buf : Addr) (n : PLen) (cb : CbId) (arg : Arg) : Submission where
  address := address
  pfx := buf
  pfxLen := n
  data := 0
  dataLen := 0
  cb := cb
  arg := arg
  fastFail := false

/-- SUBMIT.PAGE's expansion: a 1-byte prefix and `n` payload bytes (rule R88). -/
def pageSubmission (address : BitVec 8) (pfx buf : Addr) (n : DLen) (cb : CbId) (arg : Arg) : Submission where
  address := address
  pfx := pfx
  pfxLen := 1
  data := buf
  dataLen := n
  cb := cb
  arg := arg
  fastFail := false

/-- Well-formed operations. A COMPLETE word names neither `NONE` (rule R105 clause 3) nor a client
callback, whose word is that callback's own row (rule R77). -/
def Instr.wf (W : Widths) : Instr → Bool
  | .submit q | .submitHost q | .submitSpin q => q.wf W
  | .complete cb arg => cb != 0 && !isClientCb cb && fits W.cbW cb && fits W.argW arg
  | .displayInit d width height fb _ _ => fits W.argW d && displayWf W.ptrW width height fb
  | .submitCmd address buf n cb arg => (cmdSubmission address buf n cb arg).wf W
  | .submitPage address pfx buf n cb arg => (pageSubmission address pfx buf n cb arg).wf W
  | .evIdle | .evStop | .evSlaveAddress | .evWritePrefix | .evWriteByte => true
  | .busNone | .busStart | .busWrite _ | .busStop => true
  | .cbNop d | .cbRelease d | .cbSelectDone d | .cbXferDone d => fits W.argW d
  | .lockAcquire d | .lockTry d | .lockRelease d | .refreshStart d | .brightnessSet d _ => fits W.argW d

/-- The constraints of rule R6 on the parameters (widths, lengths, page index), with the four client
buffers inside the address space. -/
def Params.wf (p : Params) : Bool :=
  p.widths.wf
    && p.selTemplate.length == 6 && decide (p.selPageIndex < 6) && p.brightTemplate.length == 4
    && fits p.widths.plenW p.initBytes.length
    && runWf p.widths.ptrW p.selBuf 6 && runWf p.widths.ptrW p.brightBuf 4 && runWf p.widths.ptrW p.dataPfx 1
    && runWf p.widths.ptrW p.initSeq p.initBytes.length

end Sys2Proof
end

