-- ==== Sys2Proof/Machine/Operands.lean ====
section
/-!
DEFINITION. Every operand form: the address byte, the caller contract of a submission, the
submissions the clients build, and the argument of a callback routine.
-/

namespace Sys2Proof.Machine

/-- `ADDR_BYTE` (rules R80, R124): the identity but for the operands the parameter lists. -/
def addrByte (p : Params) (a : BitVec 8) : Byte :=
  (p.addrMap.lookup a).getD a

/-- `x +_n y` (rules R7, R130). -/
def addMod (n x y : Nat) : Nat :=
  (x + y) % 2 ^ n

/-- `x -_n y` (rules R7, R130). -/
def subMod (n x y : Nat) : Nat :=
  (x + (2 ^ n - y % 2 ^ n)) % 2 ^ n

/-- Whether the run of `len` bytes at `ptr` meets no hole of host memory (rule R48). -/
def readable (p : Params) (ptr len : Nat) : Bool :=
  p.holes.all fun h => decide (h.2 = 0) || decide (ptr + len ≤ h.1) || decide (h.1 + h.2 ≤ ptr)

/-- How a run breaks clauses 1 and 2 of rule R105, if it does. -/
def runFlaw (p : Params) (ptr len : Nat) : Option RunFlaw :=
  if len = 0 then
    if ptr = 0 then none else some .referenceWithoutCount
  else if ptr = 0 then some .countWithoutReference
  else if 2 ^ p.widths.ptrW < ptr + len then some .wraps
  else if readable p ptr len then none
  else some .unreadable

/-- Whether an identifier names a host routine: one of the client callbacks or an entry of the host's
own table (rules R77, R105 clause 3). That the routine returns, which clause 3 asks for as well, is not
looked at (DESIGN CHOICE, log 27): a routine that does not return is admitted and hangs, as U10, rule R213
and vector V44 say. -/
def isRoutine (s : State) (cb : CbId) : Bool :=
  isClientCb cb || (s.routines.lookup cb).isSome

/-- How a submission breaks the caller contract of rule R105, if it does. Clause 4, the reserved bits,
is the decoder's. -/
def submitFlaw (s : State) (q : Submission) : Option SubmitFlaw :=
  match runFlaw s.par q.pfx q.pfxLen with
  | some f => some (.ofPrefix f)
  | none =>
    match runFlaw s.par q.data q.dataLen with
    | some f => some (.ofData f)
    | none =>
      if q.fits s.par.widths then
        if q.cb = 0 then some .noneCallback
        else if isRoutine s q.cb then none
        else some .notARoutine
      else some .tooWide

/-- The admitted sizes of rule R175. -/
def displayAdmitted (p : Params) (width height fb : Nat) : Bool :=
  decide (height % 8 = 0 ∧ 8 ≤ height ∧ height ≤ 64 ∧ 1 ≤ width ∧
    fb + width * (height / 8) ≤ 2 ^ p.widths.ptrW)

/-- The bring-up submission of DISPLAY.INIT (rule R175): prefix-only, fast-fail, callback CB.NOP. -/
def initSubmission (p : Params) (d : Arg) (busAddr : BitVec 8) : Submission where
  address := busAddr
  pfx := p.initSeq
  pfxLen := p.initBytes.length
  data := 0
  dataLen := 0
  cb := 1
  arg := d
  fastFail := true

/-- The select-page submission (rule R176). -/
def selectSubmission (p : Params) (d : Arg) (r : Display) : Submission :=
  cmdSubmission r.busAddr p.selBuf 6 3 d

/-- The byte patched into the select-page command for a page (rules R84, R176). Rule R84 speaks of pages 0
to 7; for the larger cursors that a record no DISPLAY.INIT filled or broken lock discipline can reach
(rules R242, R249) the pseudocode of rule R176 is followed, `| d.cursor`, which from 16 on changes the
high nibble, as long as the cursor fits one byte, and beyond that the byte is a free value (DESIGN
CHOICE, log 26). -/
def selectByte (p : Params) (page : Nat) : Byte :=
  if page < 256 then (p.selTemplate.getD p.selPageIndex 0#8 &&& 0xF0#8) ||| BitVec.ofNat 8 page
  else Config.widePage page

/-- Where that byte lies (rule R84). -/
def selectAddr (p : Params) : Addr :=
  addMod p.widths.ptrW p.selBuf p.selPageIndex

/-- Where the brightness level lies (rules R85, R184). -/
def brightAddr (p : Params) : Addr :=
  addMod p.widths.ptrW p.brightBuf 3

/-- The payload address of the page at the cursor, as a natural number (rule R181). -/
def pageAddr (r : Display) : Nat :=
  r.fb + r.cursor * r.width

/-- The transfer-page submission (rule R181). -/
def xferSubmission (p : Params) (d : Arg) (r : Display) : Submission :=
  pageSubmission r.busAddr p.dataPfx (pageAddr r) r.width 4 d

/-- The brightness submission (rule R184). -/
def brightSubmission (p : Params) (d : Arg) (r : Display) : Submission :=
  cmdSubmission r.busAddr p.brightBuf 4 2 d

/-- Whether the value of an assignment fits its field (rule R28): the frame buffer reference has `PTR_W`
bits, and the sizes, the page count and the cursor are natural numbers without a width. -/
def DisplayUpdate.fits (W : Widths) : DisplayUpdate → Bool
  | .fb a => Sys2Proof.fits W.ptrW a
  | .width _ | .height _ | .pageCount _ | .busAddr _ | .cursor _ | .advanceCursor | .lock _ => true

/-- A record after one assignment (rules R28, R151). -/
def DisplayUpdate.apply (u : DisplayUpdate) (r : Display) : Display :=
  match u with
  | .width n => { r with width := n }
  | .height n => { r with height := n }
  | .pageCount n => { r with pageCount := n }
  | .busAddr a => { r with busAddr := a }
  | .cursor n => { r with cursor := n }
  | .advanceCursor => { r with cursor := r.cursor + 1 }
  | .fb a => { r with fb := a }
  | .lock held => { r with lock := held }

/-- A SUB word with its `arg` field replaced (rule R73). -/
def onArgSub (W : Widths) (arg : Arg) (w : Nat) : Nat :=
  cat 8 (cat W.argW (w / 2 ^ (8 + W.argW)) arg) (slice 0 8 w)

/-- A line of a routine's body with the invocation's argument in the place of its display operand, or
of the callback argument of a submission (rule R150: the routine runs "with argument arg"; log 2). -/
def onArg (W : Widths) (arg : Arg) : PortWord → PortWord
  | .host id ops => .host id (if id = 0#4 then ops.map (onArgSub W arg) else ops.set 0 arg)
  | .sub w => .sub (onArgSub W arg w)
  | .cpl w => .cpl (cplWord W (slice W.argW W.cbW w) arg)
  | .pseudo k ops => .pseudo k (ops.set (if k = 0#2 then 6 else if k = 1#2 then 4 else 5) arg)
  | .st w => .st w
  | .cmd w => .cmd w

/-- A routine's line ready to run with an argument. -/
def bindArg (W : Widths) (arg : Arg) : HostAct → HostAct
  | .lineOnArg w => .line (onArg W arg w)
  | .updateOnArg u => .update arg u
  | a => a

end Sys2Proof.Machine
end

