-- ==== Sys2Proof/Machine/Ops.lean ====
section
/-!
DEFINITION. The named operations over registers, memory, the bus port and the work lists, and the
taking of the bus event with the return from it (rules R8, R211, R213).
-/

namespace Sys2Proof.Machine

/-- The three outcomes of a step of this machine. -/
abbrev Res := Host.Outcome State Fault Refusal

/-- Goes on from a next state; a fault or a refusal stands. -/
def andThen (o : Res) (f : State → Res) : Res :=
  match o with
  | .next s => f s
  | .fault r => .fault r
  | .refused r => .refused r

/-- A change of the next state; a fault or a refusal stands. -/
def onNext (f : State → State) (o : Res) : Res :=
  andThen o fun s => .next (f s)

/-- `state <- b` (rule R8). -/
def State.setPhase (s : State) (b : BusState) : State :=
  { s with state := b }

/-- A host operation's outcome returned to its caller (rules R101, R201). -/
def State.answerWith (s : State) (r : Result) : State :=
  { s with answer := some r }

/-- The capture of the eight operands into the request registers (rule R103). -/
def State.loadReq (s : State) (q : Submission) : State :=
  { s with req :=
    { address := q.address
      prefixPtr := q.pfx
      prefixRem := q.pfxLen
      dataPtr := q.data
      dataRem := q.dataLen
      cb := q.cb
      cbArg := q.arg
      fastFail := q.fastFail } }

/-- A command handed to the bus engine, its symbol appended to the wire trace (rule R8). Whether the
engine stalls on it is a free value (rules R60, R209). -/
def State.hand (s : State) (w : BitVec 10) (y : Sym) : State :=
  { s with
    cmdq := s.cmdq ++ [{ word := w, stalls := Config.busStalls s.freeIx }]
    wireTrace := s.wireTrace ++ [y]
    freeIx := s.freeIx + 1 }

/-- `BusStart()` (rule R8). -/
def State.busStart (s : State) : State :=
  s.hand startWord .start

/-- `BusWrite(b)` (rule R8). -/
def State.busWrite (s : State) (b : Byte) : State :=
  s.hand (writeWord b) (.write b)

/-- `BusStop()` (rule R8). -/
def State.busStop (s : State) : State :=
  s.hand stopWord .stop

/-- The bus engine has performed a command on the wires; how it ended is a free value that no step
of TXE reads (rules R55, R63). -/
def State.performed (s : State) (y : Sym) : State :=
  { s with
    wires := s.wires ++ [y]
    status := Config.busStatus s.freeIx
    freeIx := s.freeIx + 1 }

/-- The bus engine raises the event it owes (rules R22, R56). -/
def State.raiseEvent (s : State) : State :=
  { s with evPending := true }

/-- One byte of host memory as it is now (rules R44, R51). -/
def State.readByte (s : State) (a : Addr) : Byte :=
  Memory.read s.par s.mem a

/-- TXE's read of one byte, recorded in the model's read trace (rule R43). -/
def State.noteRead (s : State) (a : Addr) : State :=
  { s with readTrace := s.readTrace ++ [a] }

/-- `MemWrite(a, 1, b)`, a host store (rule R8). -/
def State.writeByte (s : State) (a : Addr) (b : Byte) : State :=
  { s with mem := Memory.write s.par s.mem a b }

/-- The record of a display. -/
def State.display (s : State) (d : Arg) : Display :=
  Displays.get s.displays d

/-- A display's record written. -/
def State.setDisplay (s : State) (d : Arg) (r : Display) : State :=
  { s with displays := Displays.put s.displays d r }

/-- An assignment of host code to a display's record (rules R28, R151), whose reference and value fit: the
line that carries the assignment looks at that first (`runLine`; DESIGN CHOICE, log 29). -/
def State.update (s : State) (d : Arg) (u : DisplayUpdate) : State :=
  s.setDisplay d (u.apply (s.display d))

/-- The frequency handed to the bus engine (rules R175, R220). -/
def State.setBusFreq (s : State) (f : Nat) : State :=
  { s with busFreq := f }

/-- A free value has been read (log 7). -/
def State.bump (s : State) : State :=
  { s with freeIx := s.freeIx + 1 }

/-- `goto L` of a spin (rule R88): the operation is the next line of the context it runs in. -/
def State.again (s : State) (i : Instr) : State :=
  match s.ctx with
  | .main => { s with main := .line (encode s.par.widths i) :: s.main }
  | .handler => { s with todo := .line (encode s.par.widths i) :: s.todo }

/-- TAKING THE EVENT (handler entry, rule R211): the event is consumed and the context is Handler.
No register is saved and there is no vector (rules R200, R211): the step that runs next is the one
`state` selects (rule R120). -/
def takeEvent (s : State) : State :=
  { s with evPending := false, ctx := .handler }

/-- RETURN FROM THE HANDLER (rules R211, R213): the context is Main again. -/
def handlerReturn (s : State) : State :=
  { s with ctx := .main }

/-- The handler returns when the event step, and the callback if one was invoked, have ended (rule
R213): when the callback has no line left. -/
def closeWindow (s : State) : State :=
  if s.todo.isEmpty then handlerReturn s else s

end Sys2Proof.Machine
end

