-- ==== Sys2Proof/Machine/BusEngine.lean ====
section
/-!
DEFINITION. The bus engine's part of the contract: what it does with one CMD word (rules R55 to R60
and R76; spec/20_memory.md section 5).
-/

namespace Sys2Proof.Machine

/-- BUS.NONE (rules R76, R81): not a command; the bus engine does nothing. -/
def execBusNone (s : State) : Res :=
  .next s

/-- BUS.START (rules R55, R56): the start condition is performed, then one event is raised. -/
def execBusStart (s : State) : Res :=
  .next (s.performed .start).raiseEvent

/-- BUS.WRITE (rules R55, R56): the byte is written, then one event is raised, whatever the far end
answered. -/
def execBusWrite (b : Byte) (s : State) : Res :=
  .next (s.performed (.write b)).raiseEvent

/-- BUS.STOP (rules R55, R57): the stop condition is performed; no event. -/
def execBusStop (s : State) : Res :=
  .next (s.performed .stop)

end Sys2Proof.Machine
end

