-- ==== Sys2Proof/Machine/Submit.lean ====
section
/-!
DEFINITION. The transaction scheduler: SUBMIT and the pseudo-operations over it (spec/40_submit.md,
rule R88 of spec/30_encoding.md).
-/

namespace Sys2Proof.Machine

/-- The accepted branch of rule R103 but for the answer: capture, `state <- SlaveAddress`, START. -/
def accept (q : Submission) (s : State) : State :=
  ((s.loadReq q).setPhase .slaveAddress).busStart

/-- Whether a busy SUBMIT holds until accepted instead of returning 0 (rule R107). -/
def blocks (q : Submission) (s : State) : Bool :=
  s.par.fastFail0Blocks && !q.fastFail

/-- The caller contract comes first (rule R112: an ill-formed submission is refused even where it
would be rejected); then the request is accepted in Idle and `ok` follows, or nothing is captured and
`busy` follows. -/
def submitOr (q : Submission) (ok busy : State → State) (s : State) : Res :=
  match submitFlaw s q with
  | some f => .refused (.illFormedSubmission f)
  | none => if s.state = .idle then .next (ok (accept q s)) else .next (busy s)

/-- One SUBMIT (rules R103, R104, R107), `self` being the operation to repeat where it blocks. -/
def submitOnce (self : Instr) (q : Submission) (s : State) : Res :=
  submitOr q (fun t => t.answerWith .ok) (fun t => if blocks q t then t.again self else t.answerWith .busy) s

/-- One round of SUBMIT.SPIN (rule R88): a rejected attempt is followed by another. The attempts'
answers go to the loop, not to its caller (rule R189). -/
def spin (q : Submission) (s : State) : Res :=
  submitOr q id (fun t => t.again (.submitSpin q)) s

/-- SUBMIT, a word on the SUB port (rule R103). -/
def execSubmit (q : Submission) (s : State) : Res :=
  submitOnce (.submit q) q s

/-- SUBMIT as a line of a host program (rules R83, R103). -/
def execSubmitHost (q : Submission) (s : State) : Res :=
  submitOnce (.submitHost q) q s

/-- SUBMIT.SPIN (rule R88). -/
def execSubmitSpin (q : Submission) (s : State) : Res :=
  spin q s

/-- SUBMIT.CMD (rule R88): SUBMIT.SPIN of a prefix-only submission. -/
def execSubmitCmd (address : BitVec 8) (buf : Addr) (n : PLen) (cb : CbId) (arg : Arg) (s : State) : Res :=
  spin (cmdSubmission address buf n cb arg) s

/-- SUBMIT.PAGE (rule R88): SUBMIT.SPIN of a 1-byte prefix and `n` payload bytes. -/
def execSubmitPage (address : BitVec 8) (pfx buf : Addr) (n : DLen) (cb : CbId) (arg : Arg) (s : State) : Res :=
  spin (pageSubmission address pfx buf n cb arg) s

end Sys2Proof.Machine
end

