-- ==== Sys2Proof/Machine/Clients.lean ====
section
/-!
DEFINITION. The clients of the engine: the busy lock, initialisation, the refresh sequencer and
brightness (spec/43_client_lock_refresh.md). A spin is one step per attempt. `exec` runs a procedure
from its first line to its last; `partsOf` gives the same procedure line by line, for where main-line can
be preempted inside it (rule R211).
-/

namespace Sys2Proof.Machine

/-- The claim of a free lock (rule R172). -/
def claim (d : Arg) (s : State) : State :=
  s.setDisplay d { s.display d with lock := true }

/-- LOCK.RELEASE (rule R173): no check. -/
def lockRelease (d : Arg) (s : State) : State :=
  s.setDisplay d { s.display d with lock := false }

/-- The patch of the page at the cursor into SELBUF (rules R84, R176). -/
def patchSelect (d : Arg) (s : State) : State :=
  s.writeByte (selectAddr s.par) (selectByte s.par (s.display d).cursor)

/-- The submission of `SelectPage` (rule R176). -/
def submitSelect (d : Arg) (s : State) : Res :=
  spin (selectSubmission s.par d (s.display d)) s

/-- SelectPage (rule R176): the patch first, then the select-page transaction is submitted by
spinning. -/
def selectPage (d : Arg) (s : State) : Res :=
  submitSelect d (patchSelect d s)

/-- The body of CB.SELECT_DONE (rule R181). A page that passes the top of the address space is an
ill-formed submission like any other (rules R48, R105). -/
def selectDone (d : Arg) (s : State) : Res :=
  spin (xferSubmission s.par d (s.display d)) s

/-- `d.cursor <- n`. -/
def setCursor (d : Arg) (n : Nat) (s : State) : State :=
  s.setDisplay d { s.display d with cursor := n }

/-- The second half of CB.XFER_DONE (rule R182): the last page's completion releases the lock, any
other selects the next page. -/
def nextPage (d : Arg) (s : State) : Res :=
  if (s.display d).cursor = (s.display d).pageCount then .next (lockRelease d s) else selectPage d s

/-- The body of CB.XFER_DONE (rule R182): advance, then compare. -/
def xferDone (d : Arg) (s : State) : Res :=
  nextPage d (setCursor d ((s.display d).cursor + 1) s)

/-- LOCK.ACQUIRE (rule R171): one poll of its loop. It returns no outcome (rule R189). -/
def execLockAcquire (d : Arg) (s : State) : Res :=
  if (s.display d).lock then .next (s.again (.lockAcquire d)) else .next (claim d s)

/-- LOCK.TRY (rule R172): test and claim in one step. -/
def execLockTry (d : Arg) (s : State) : Res :=
  if (s.display d).lock then .next (s.answerWith .busy) else .next ((claim d s).answerWith .ok)

/-- LOCK.RELEASE (rule R173). -/
def execLockRelease (d : Arg) (s : State) : Res :=
  .next (lockRelease d s)

/-- What DISPLAY.INIT writes before its submission (rule R175): the record but for the cursor, the
lock freed, and the frequency handed to the bus engine. -/
def fillDisplay (d : Arg) (width height : Nat) (fb : Addr) (freq : Nat) (busAddr : BitVec 8) (s : State) : State :=
  (s.setDisplay d
    { s.display d with
      width := width
      height := height
      pageCount := height / 8
      fb := fb
      busAddr := busAddr
      lock := false }).setBusFreq freq

/-- The one attempt of DISPLAY.INIT (rule R175): it is fast-fail, so it never blocks; its answer, Ok or
Busy, is the operation's. -/
def initSubmit (d : Arg) (busAddr : BitVec 8) (s : State) : Res :=
  submitOr (initSubmission s.par d busAddr) (fun t => t.answerWith .ok) (fun t => t.answerWith .busy) s

/-- DISPLAY.INIT (rule R175): the record is filled and the lock freed whether or not the one attempt
to schedule the bring-up transaction is accepted. -/
def execDisplayInit (d : Arg) (width height : Nat) (fb : Addr) (freq : Nat) (busAddr : BitVec 8) (s : State) : Res :=
  if displayAdmitted s.par width height fb then
    initSubmit d busAddr (fillDisplay d width height fb freq busAddr s)
  else .refused .inadmissibleDisplay

/-- REFRESH.START (rule R180): the cursor is set to 0 and page 0 is selected. The lock is not looked
at (rule R174, conflict C2). -/
def execRefreshStart (d : Arg) (s : State) : Res :=
  selectPage d (setCursor d 0 s)

/-- The patch of a level into BRIGHTBUF[3] (rules R85, R184). -/
def patchBright (level : Byte) (s : State) : State :=
  s.writeByte (brightAddr s.par) level

/-- The submission of BRIGHTNESS.SET (rule R184). -/
def submitBright (d : Arg) (s : State) : Res :=
  spin (brightSubmission s.par d (s.display d)) s

/-- BRIGHTNESS.SET (rule R184): one poll of its LOCK.ACQUIRE; once the lock is claimed, the level is
patched into BRIGHTBUF[3] and the brightness transaction is submitted by spinning. -/
def execBrightnessSet (d : Arg) (level : Byte) (s : State) : Res :=
  if (s.display d).lock then .next (s.again (.brightnessSet d level))
  else submitBright d (patchBright level (claim d s))

/-- One line of a client procedure. -/
def runPart (p : Part) (s : State) : Res :=
  match p with
  | .setFreq freq => .next (s.setBusFreq freq)
  | .initSubmit d busAddr => initSubmit d busAddr s
  | .patchSelect d => .next (patchSelect d s)
  | .submitSelect d => submitSelect d s
  | .patchBright level => .next (patchBright level s)
  | .submitBright d => submitBright d s

/-- The client procedures that are not one atomic operation (rule R211), line by line in the order of
rules R175, R180 and R184. An inadmissible DISPLAY.INIT has no lines: it is refused. -/
def partsOf (p : Params) : Instr → Option (List HostAct)
  | .displayInit d width height fb freq busAddr =>
    if displayAdmitted p width height fb then
      some
        [.update d (.width width), .update d (.height height), .update d (.pageCount (height / 8)),
          .update d (.fb fb), .update d (.busAddr busAddr), .update d (.lock false), .part (.setFreq freq),
          .part (.initSubmit d busAddr)]
    else none
  | .refreshStart d => some [.update d (.cursor 0), .part (.patchSelect d), .part (.submitSelect d)]
  | .brightnessSet d level =>
    some [.line (encode p.widths (.lockAcquire d)), .part (.patchBright level), .part (.submitBright d)]
  | .evIdle | .evStop | .evSlaveAddress | .evWritePrefix | .evWriteByte | .submit _ | .busNone | .busStart
  | .busWrite _ | .busStop | .complete _ _ | .cbNop _ | .cbRelease _ | .cbSelectDone _ | .cbXferDone _
  | .submitHost _ | .lockAcquire _ | .lockTry _ | .lockRelease _ | .submitSpin _ | .submitCmd _ _ _ _ _
  | .submitPage _ _ _ _ _ _ => none

end Sys2Proof.Machine
end

