-- ==== Sys2Proof/Machine/Completion.lean ====
section
/-!
DEFINITION. The completion invocation COMPLETE and the client callbacks (spec/42_completion_chain.md,
rules R150 to R160; rules R181, R182, R185, R186 of spec/43_client_lock_refresh.md).
-/

namespace Sys2Proof.Machine

/-- The routine a completion word names, started with its argument in handler context (rule R150).
The four client callbacks run to their end here, but for a spin that is not accepted at once; a
routine of the host's own table runs line by line in the handler window (`todo`). -/
def callRoutine (cb : CbId) (arg : Arg) (s : State) : Res :=
  if cb = 0 then .fault .noCallback
  else if cb = 1 then .next s
  else if cb = 2 then .next (lockRelease arg s)
  else if cb = 3 then selectDone arg s
  else if cb = 4 then xferDone arg s
  else
    match s.routines.lookup cb with
    | none => .refused .notARoutine
    | some body => .next { s with todo := body.map (bindArg s.par.widths arg) ++ s.todo }

/-- `Invoke(cb, arg)` (rule R150): `C(cb, arg)` joins the completion trace and the routine runs with
`ctx = Handler`. -/
def invoke (cb : CbId) (arg : Arg) (s : State) : Res :=
  callRoutine cb arg
    { s with complTrace := s.complTrace ++ [{ cb := cb, arg := arg }], ctx := .handler }

/-- COMPLETE (rule R150). -/
def execComplete (cb : CbId) (arg : Arg) (s : State) : Res :=
  invoke cb arg s

/-- CB.NOP (rule R186): it returns at once and changes nothing. -/
def execCbNop (_arg : Arg) (s : State) : Res :=
  .next s

/-- CB.RELEASE (rule R185). -/
def execCbRelease (d : Arg) (s : State) : Res :=
  .next (lockRelease d s)

/-- CB.SELECT_DONE (rule R181). -/
def execCbSelectDone (d : Arg) (s : State) : Res :=
  selectDone d s

/-- CB.XFER_DONE (rule R182). -/
def execCbXferDone (d : Arg) (s : State) : Res :=
  xferDone d s

end Sys2Proof.Machine
end

