-- ==== Sys2Proof/Machine/EventFsm.lean ====
section
/-!
DEFINITION. The bus state machine: one event step per value of `state` (spec/41_event_fsm.md).
-/

namespace Sys2Proof.Machine

/-- The end of a transaction, in the order of rule R122: STOP, `state <- Idle`, Invoke with the
`req.cb` and `req.cb_arg` read before the callback runs. -/
def finishTransaction (s : State) : Res :=
  invoke s.req.cb s.req.cbArg (s.busStop.setPhase .idle)

/-- The state after the address byte (rule R124): a run is present when its count is not zero
(decision D7). -/
def afterAddress (r : Req) : BusState :=
  if r.prefixRem = 0 ∧ r.dataRem = 0 then .stop
  else if r.prefixRem = 0 then .writeByte
  else .writePrefix

/-- EV.IDLE (rule R121): the defensive finish-and-notify path, the same as EV.STOP. -/
def execEvIdle (s : State) : Res :=
  finishTransaction s

/-- EV.STOP (rule R122). -/
def execEvStop (s : State) : Res :=
  finishTransaction s

/-- EV.SLAVEADDRESS (rule R124). -/
def execEvSlaveAddress (s : State) : Res :=
  .next ((s.busWrite (addrByte s.par s.req.address)).setPhase (afterAddress s.req))

/-- The byte at an address, read as it is now, handed to the bus engine (rules R43, R125, R126). -/
def sendByte (a : Addr) (s : State) : State :=
  (s.noteRead a).busWrite (s.readByte a)

/-- `req.prefix_ptr` and `req.prefix_rem` after a prefix byte (rules R125, R130). -/
def stepPrefix (W : Widths) (r : Req) : Req :=
  { r with prefixPtr := addMod W.ptrW r.prefixPtr 1, prefixRem := subMod W.plenW r.prefixRem 1 }

/-- `req.data_ptr` and `req.data_rem` after a payload byte (rules R126, R130). -/
def stepData (W : Widths) (r : Req) : Req :=
  { r with dataPtr := addMod W.ptrW r.dataPtr 1, dataRem := subMod W.dlenW r.dataRem 1 }

/-- The state after a prefix byte (rule R125), the counts being those after the decrement. -/
def afterPrefix (r : Req) : BusState :=
  if r.prefixRem = 0 then (if r.dataRem ≠ 0 then .writeByte else .stop) else .writePrefix

/-- The state after a payload byte (rule R126), the count being that after the decrement. -/
def afterData (r : Req) : BusState :=
  if r.dataRem = 0 then .stop else .writeByte

/-- EV.WRITEPREFIX (rule R125). -/
def execEvWritePrefix (s : State) : Res :=
  .next
    { sendByte s.req.prefixPtr s with
      req := stepPrefix s.par.widths s.req
      state := afterPrefix (stepPrefix s.par.widths s.req) }

/-- EV.WRITEBYTE (rule R126). -/
def execEvWriteByte (s : State) : Res :=
  .next
    { sendByte s.req.dataPtr s with
      req := stepData s.par.widths s.req
      state := afterData (stepData s.par.widths s.req) }

end Sys2Proof.Machine
end

