-- ==== Sys2Proof/Machine/Dispatch.lean ====
section
/-!
DEFINITION. One arm per constructor of `Instr`, each one direct call of its meaning.
-/

namespace Sys2Proof.Machine

def exec (i : Instr) (s : State) : Host.Outcome State Fault Refusal :=
  match i with
  -- format ST: the event steps
  | .evIdle => Sys2Proof.Machine.execEvIdle s
  | .evStop => Sys2Proof.Machine.execEvStop s
  | .evSlaveAddress => Sys2Proof.Machine.execEvSlaveAddress s
  | .evWritePrefix => Sys2Proof.Machine.execEvWritePrefix s
  | .evWriteByte => Sys2Proof.Machine.execEvWriteByte s
  -- format SUB
  | .submit q => Sys2Proof.Machine.execSubmit q s
  -- format CMD: the bus engine
  | .busNone => Sys2Proof.Machine.execBusNone s
  | .busStart => Sys2Proof.Machine.execBusStart s
  | .busWrite b => Sys2Proof.Machine.execBusWrite b s
  | .busStop => Sys2Proof.Machine.execBusStop s
  -- format CPL: the host's routines
  | .complete cb arg => Sys2Proof.Machine.execComplete cb arg s
  | .cbNop arg => Sys2Proof.Machine.execCbNop arg s
  | .cbRelease d => Sys2Proof.Machine.execCbRelease d s
  | .cbSelectDone d => Sys2Proof.Machine.execCbSelectDone d s
  | .cbXferDone d => Sys2Proof.Machine.execCbXferDone d s
  -- format HOST
  | .submitHost q => Sys2Proof.Machine.execSubmitHost q s
  | .lockAcquire d => Sys2Proof.Machine.execLockAcquire d s
  | .lockTry d => Sys2Proof.Machine.execLockTry d s
  | .lockRelease d => Sys2Proof.Machine.execLockRelease d s
  | .displayInit d width height fb freq busAddr => Sys2Proof.Machine.execDisplayInit d width height fb freq busAddr s
  | .refreshStart d => Sys2Proof.Machine.execRefreshStart d s
  | .brightnessSet d level => Sys2Proof.Machine.execBrightnessSet d level s
  -- pseudo-operations
  | .submitSpin q => Sys2Proof.Machine.execSubmitSpin q s
  | .submitCmd address buf n cb arg => Sys2Proof.Machine.execSubmitCmd address buf n cb arg s
  | .submitPage address pfx buf n cb arg => Sys2Proof.Machine.execSubmitPage address pfx buf n cb arg s

end Sys2Proof.Machine
end

