-- ==== Sys2Proof/Machine/Agents.lean ====
section
/-!
DEFINITION. What each agent does when it moves, which agents can move, and which of them does (rules
R30, R111, R210 to R215). A step of the machine is one move of one agent.
-/

namespace Sys2Proof.Machine

/-- The agents that take steps (rule R30); `callback` is the handler inside a callback. -/
inductive Agent where
  | engine | handler | callback | mainline
  deriving DecidableEq, Repr

/-- Whether the bus engine has a command it will finish (rules R55, R60). -/
def engineReady (s : State) : Bool :=
  match s.cmdq with
  | [] => false
  | c :: _ => !c.stalls

/-- The agents that can move: the bus engine beside the host in either context (rule R212); in
context Main the handler, if an event is pending (rule R211), and main-line, if a line is left; in
context Handler only the callback (rule R23). -/
def ready (s : State) : List Agent :=
  (if engineReady s then [Agent.engine] else []) ++
    match s.ctx with
    | .handler => [.callback]
    | .main => (if s.evPending then [Agent.handler] else []) ++ (if s.main.isEmpty then [] else [Agent.mainline])

/-- Whether a line's word may stand among the lines of host code: the words of rule R70's ports SUB
and HOST and the pseudo-operations; a CPL word in a handler window only (rule R31). -/
def portCarries (c : Ctx) (w : PortWord) : Bool :=
  match w.format with
  | .sub | .host | .pseudo => true
  | .cpl => decide (c = .handler)
  | .st | .cmd => false

/-- One line of host code. An assignment whose reference or value does not fit its width is refused (rule
R28 gives the widths and says nothing of a wider value; DESIGN CHOICE, log 29), as an operand of a HOST line
is that does not fit. -/
def runLine (a : HostAct) (s : State) : Res :=
  match a with
  | .memw addr b => if fits s.par.widths.ptrW addr then .next (s.writeByte addr b) else .fault .noSuchAddress
  | .update d u =>
    if fits s.par.widths.argW d && u.fits s.par.widths then .next (s.update d u) else .refused .wideAssignment
  | .part p => runPart p s
  | .lineOnArg _ => .refused .noArgument
  | .updateOnArg _ => .refused .noArgument
  | .line w =>
    if portCarries s.ctx w then
      match decode s.par.widths w with
      | .ok i => exec i s
      | .error e => .refused (.badWord e)
    else .refused .wrongPort

/-- The bus engine takes its oldest command and performs it (rule R55). -/
def runEngine (s : State) : Res :=
  match s.cmdq with
  | [] => .next s
  | c :: rest => exec (decodeCmd c.word) { s with cmdq := rest }

/-- The handler takes the event and runs the one event step that `state` selects (rules R120, R211);
it returns at once unless a callback has lines left (rule R213). -/
def runHandler (s : State) : Res :=
  match decode s.par.widths (.st (stateCode s.state)) with
  | .ok i => onNext closeWindow (exec i (takeEvent s))
  | .error e => .refused (.badWord e)

/-- The callback runs its next line, or the handler returns (rule R213). -/
def runCallback (s : State) : Res :=
  match s.todo with
  | [] => .next (handlerReturn s)
  | a :: rest => onNext closeWindow (runLine a { s with todo := rest })

/-- Whether an event is pending or can become so before main-line's next operation: only then can the
handler come between two lines of a procedure (rule R211). -/
def preemptible (s : State) : Bool :=
  s.evPending || engineReady s

/-- The lines of the client procedure that a line calls, if it calls one that main-line can be preempted
in. -/
def procedureLines (p : Params) (a : HostAct) : Option (List HostAct) :=
  match a with
  | .line w =>
    match decode p.widths w with
    | .ok i => partsOf p i
    | .error _ => none
  | .lineOnArg _ | .memw _ _ | .update _ _ | .updateOnArg _ | .part _ => none

/-- Main-line runs its next line. Where it can be preempted, a client procedure's lines are put in its
place, and the order in which they and the handler run is open as between any two lines (rule R211; log
16); where it cannot, the procedure runs from its first line to its last in one step. -/
def runMainline (s : State) : Res :=
  match s.main with
  | [] => .next s
  | a :: rest =>
    match (if preemptible s then procedureLines s.par a else none) with
    | some lines => .next { s with main := lines ++ rest }
    | none => runLine a { s with main := rest }

/-- The move of an agent. -/
def move : Agent → State → Res
  | .engine, s => runEngine s
  | .handler, s => runHandler s
  | .callback, s => runCallback s
  | .mainline, s => runMainline s

/-- The move of one of the agents that can: the only one, or the one a free value picks (rules R111,
R215: either order is admitted). With none ready nothing happens: the end of a run, or a stalled bus,
which is a hang and never a fault (rules R209, R255). -/
def moveOne (s : State) : Res :=
  match ready s with
  | [] => .next s
  | [a] => move a s
  | a :: b :: l => move ((a :: b :: l).getD (Config.turn s.freeIx % (l.length + 2)) a) s.bump

/-- The bus engine finishes every outstanding command, the first `n` at most, in order. -/
def finishAll : Nat → State → Res
  | 0, s => .next s
  | n + 1, s => andThen (runEngine s) (finishAll n)

/-- `EVENT` of rule R87: the bus engine finishes what it has and, if an event is pending then, the
handler takes it and runs to its return or into the callback's lines. -/
def event (s : State) : Res :=
  andThen (finishAll s.cmdq.length s) fun s =>
    if s.evPending then runHandler s else .next s

/-- `EVENT x n` of a program (spec/95_test_vectors.md). -/
def events : Nat → State → Res
  | 0, s => .next s
  | n + 1, s => andThen (event s) (events n)

end Sys2Proof.Machine
end

