-- ==== Sys2Proof/Machine/Place.lean ====
section
/-!
DEFINITION. Where the next step finds a word of each port: the placing that stands for the load of a
program, the raising of an event or the handing over of a command (log 2).
-/

namespace Sys2Proof.Machine

/-- The state in which the very next step runs the operation a word spells, every other agent still:
an ST word as the value of `state` with an event pending; a CMD word as the bus engine's one command;
a CPL word as the next line of an open handler window; any other word as main-line's next line. A
reserved ST code (rule R72) is placed nowhere and the state stands: `state` has five values and cannot
hold it (DESIGN CHOICE, log 28). -/
def place (s : State) (w : PortWord) : State :=
  match w with
  | .st c =>
    match stateOfCode c with
    | some b => { s with state := b, evPending := true, ctx := .main, main := [], cmdq := [] }
    | none => s
  | .cmd c => { s with cmdq := [{ word := c, stalls := false }], evPending := false, ctx := .main, main := [] }
  | .cpl c => { s with todo := .line (.cpl c) :: s.todo, ctx := .handler, cmdq := [] }
  | w => { s with main := .line w :: s.main, evPending := false, ctx := .main, cmdq := [] }

end Sys2Proof.Machine
end

