-- ==== Sys2Proof/Machine/Step.lean ====
section
/-!
DEFINITION. The step of the machine and the placing of a table word for it.
-/

namespace Sys2Proof.Machine

/-- One step: one move of one agent. -/
def step (s : State) : Host.Outcome State Fault Refusal :=
  moveOne s

/-- The state with a table word placed where the next step fetches it. A bare word of no format, and a
reserved ST code, is placed nowhere (DESIGN CHOICE, log 28); any other word that spells nothing is placed,
and the step refuses it (rule R81). -/
def State.withFetchWord (s : State) (nbits w : Nat) : State :=
  match tableWord nbits w with
  | none => s
  | some pw => place s pw

end Sys2Proof.Machine
end

