-- ==== Sys2Proof/Safety.lean ====
section
/-!
DEFINITION. What the spec says of whole runs, as predicates on one state: the end of a run (rule
R255), and the invariants of rules R25, R26, R34, R48, R55, R59, R154, R214.
-/

namespace Sys2Proof.Machine

/-- A transaction is in flight (rule R26). -/
def State.inFlight (s : State) : Bool :=
  decide (s.state ≠ .idle)

/-- The end of a run (rule R255): nothing left to do anywhere. -/
def State.ended (s : State) : Bool :=
  s.main.isEmpty && decide (s.ctx = .main) && !s.evPending && decide (s.state = .idle)

/-- A stalled bus (rules R209, R255): a transaction is in flight and no event is pending or will come. -/
def State.stuckBus (s : State) : Bool :=
  s.inFlight && !s.evPending && !engineReady s

/-- The lists of memory and of the display records are in their canonical form. -/
def Canonical (s : State) : Prop :=
  Memory.wf s.par s.mem = true ∧ Displays.wf s.displays = true

/-- The CMD words that owe an event: START and WRITE (rule R56). -/
def Owing (w : BitVec 10) : Prop :=
  w = startWord ∨ ∃ b, w = writeWord b

/-- The bus engine contract as TXE keeps its side of it (rules R25, R26, R56 to R59, R214): in Idle no
event is pending and at most one STOP is outstanding; in flight either the event is pending and no
command is outstanding, or it is not and exactly one event-owing command is, last, after at most one
STOP. -/
def BusContract (s : State) : Prop :=
  match s.state with
  | .idle => s.evPending = false ∧ (s.cmdq.map Command.word = [] ∨ s.cmdq.map Command.word = [stopWord])
  | _ =>
    (s.evPending = true ∧ s.cmdq.map Command.word = []) ∨
      (s.evPending = false ∧
        ∃ w, Owing w ∧ (s.cmdq.map Command.word = [w] ∨ s.cmdq.map Command.word = [stopWord, w]))

/-- Every request register fits its width (rules R13 to R19). -/
def RegistersFit (s : State) : Prop :=
  s.req.prefixPtr < 2 ^ s.par.widths.ptrW ∧ s.req.prefixRem < 2 ^ s.par.widths.plenW ∧
    s.req.dataPtr < 2 ^ s.par.widths.ptrW ∧ s.req.dataRem < 2 ^ s.par.widths.dlenW ∧
    s.req.cb < 2 ^ s.par.widths.cbW ∧ s.req.cbArg < 2 ^ s.par.widths.argW

/-- Every listed display record is that of a reference of `ARG_W` bits, and its frame buffer reference has
`PTR_W` bits (rule R28). A record that is not listed is `Display.reset`, whose frame buffer reference is 0. -/
def RecordsFit (s : State) : Prop :=
  ∀ c ∈ s.displays, c.1 < 2 ^ s.par.widths.argW ∧ c.2.fb < 2 ^ s.par.widths.ptrW

/-- The table of rule R34 between `state` and the counts, with rule R48's bound on the cursors still
to be used (rule R130), for registers that fit. In Idle both counts are 0, as at reset and after every
transaction. -/
def CountsFit (s : State) : Prop :=
  RegistersFit s ∧
  s.req.prefixPtr + s.req.prefixRem ≤ 2 ^ s.par.widths.ptrW ∧
  s.req.dataPtr + s.req.dataRem ≤ 2 ^ s.par.widths.ptrW ∧
  match s.state with
  | .slaveAddress => True
  | .writePrefix => 1 ≤ s.req.prefixRem
  | .writeByte => s.req.prefixRem = 0 ∧ 1 ≤ s.req.dataRem
  | .stop => s.req.prefixRem = 0 ∧ s.req.dataRem = 0
  | .idle => s.req.prefixRem = 0 ∧ s.req.dataRem = 0

/-- What TXE has commanded is what the bus engine has performed and then what is outstanding, in the
order given (rules R55, R59). -/
def WiresInOrder (s : State) : Prop :=
  s.wireTrace = s.wires ++ s.cmdq.filterMap fun c => symOf c.word

/-- A line of host code that carries no completion word: those come from TXE (rule R31). -/
def HostAct.noCpl : HostAct → Bool
  | .line w => decide (w.format ≠ .cpl)
  | .lineOnArg w => decide (w.format ≠ .cpl)
  | .memw _ _ | .update _ _ | .updateOnArg _ | .part _ => true

/-- Host code that makes no completion invocation of its own. -/
def HostCode (s : State) : Prop :=
  s.main.all HostAct.noCpl = true ∧ s.todo.all HostAct.noCpl = true ∧
    s.routines.all (fun r => r.2.all HostAct.noCpl) = true

/-- Every transaction but the one in flight has had its stop and exactly one completion (rules R25,
R154): as many `S` as `P`, one more in flight, and as many `C` as `P`. -/
def OneCompletionEach (s : State) : Prop :=
  s.wireTrace.count .start = s.wireTrace.count .stop + (if s.state = .idle then 0 else 1) ∧
    s.complTrace.length = s.wireTrace.count .stop

/-- A callback is running exactly while the handler window is open between steps (rules R23, R213). -/
def WindowOpen (s : State) : Prop :=
  s.ctx = .main → s.todo = []

/-- A byte of readable host memory (rule R48). -/
def Readable (p : Params) (a : Nat) : Prop :=
  ∀ h ∈ p.holes, ¬(h.1 ≤ a ∧ a < h.1 + h.2)

/-- Clauses 1 and 2 of rule R105 for one run, with rule R48. -/
def RunMet (p : Params) (ptr len : Nat) : Prop :=
  (ptr = 0 ∧ len = 0) ∨
    (ptr ≠ 0 ∧ 1 ≤ len ∧ ptr + len ≤ 2 ^ p.widths.ptrW ∧ ∀ a, ptr ≤ a → a < ptr + len → Readable p a)

/-- The caller contract of rule R105, clauses 1 to 3: the runs, and a callback that is not `NONE` and
names a client callback (rule R77) or a routine of the host's own table; with operands that fit a SUB word
(rule R73). Clause 4, the reserved bits, is about the word and not about the operands; that the routine
returns is not asked (log 27). -/
def ContractMet (s : State) (q : Submission) : Prop :=
  RunMet s.par q.pfx q.pfxLen ∧ RunMet s.par q.data q.dataLen ∧
    (q.pfxLen < 2 ^ s.par.widths.plenW ∧ q.dataLen < 2 ^ s.par.widths.dlenW ∧
      q.cb < 2 ^ s.par.widths.cbW ∧ q.arg < 2 ^ s.par.widths.argW) ∧
    q.cb ≠ 0 ∧ (q.cb = 1 ∨ q.cb = 2 ∨ q.cb = 3 ∨ q.cb = 4 ∨ ∃ body, (q.cb, body) ∈ s.routines)

/-- The commands outstanding after one more is handed over; whether the bus engine stalls on it is
the free value of this moment (rule R60; log 7). -/
def handed (s : State) (w : BitVec 10) : List Command :=
  s.cmdq ++ [{ word := w, stalls := Config.busStalls s.freeIx }]

/-- The state with a line put in front of the work of the context that runs. -/
def nextLine (s : State) (a : HostAct) : State :=
  match s.ctx with
  | .main => { s with main := a :: s.main }
  | .handler => { s with todo := a :: s.todo }

/-- The wire frame of one transaction (rules R61, R79): start, address byte, prefix bytes, payload
bytes, stop, the bytes those of `mem` at increasing addresses. -/
def frame (p : Params) (mem : List Host.Cell) (q : Submission) : List Sym :=
  [.start, .write (addrByte p q.address)]
    ++ (List.range q.pfxLen).map (fun i => .write (Memory.read p mem (q.pfx + i)))
    ++ (List.range q.dataLen).map (fun i => .write (Memory.read p mem (q.data + i)))
    ++ [.stop]

/-- The page byte of the select-page command (rules R84, R176): the page or-ed into the template's byte
without its low nibble; for a page that does not fit a byte a free value (log 26). -/
def pageByte (par : Params) (p : Nat) : Byte :=
  if p < 256 then (par.selTemplate.getD par.selPageIndex 0#8 &&& 0xF0#8) ||| BitVec.ofNat 8 p
  else Config.widePage p

/-- Host memory while page `p` of a refresh is sent: its number patched into SELBUF (rules R84, R176). -/
def pageMem (par : Params) (mem : List Host.Cell) (p : Nat) : List Host.Cell :=
  Memory.write par mem (addMod par.widths.ptrW par.selBuf par.selPageIndex) (pageByte par p)

/-- The select-page request of a display (rule R176). -/
def selectRequest (par : Params) (d : Arg) (r : Display) : Submission where
  address := r.busAddr
  pfx := par.selBuf
  pfxLen := 6
  data := 0
  dataLen := 0
  cb := 3
  arg := d
  fastFail := false

/-- The transfer request of page `p` of a display (rule R181). -/
def pageRequest (par : Params) (d : Arg) (r : Display) (p : Nat) : Submission where
  address := r.busAddr
  pfx := par.dataPfx
  pfxLen := 1
  data := r.fb + p * r.width
  dataLen := r.width
  cb := 4
  arg := d
  fastFail := false

/-- The brightness request of a display (rule R184). -/
def brightRequest (par : Params) (d : Arg) (r : Display) : Submission where
  address := r.busAddr
  pfx := par.brightBuf
  pfxLen := 4
  data := 0
  dataLen := 0
  cb := 2
  arg := d
  fastFail := false

/-- What a refresh puts on the wire (rule R183): for each page in order the frame of its select-page
command and the frame of its transfer. -/
def refreshFrames (par : Params) (mem : List Host.Cell) (d : Arg) (r : Display) : List Sym :=
  (List.range r.pageCount).flatMap fun p =>
    frame par (pageMem par mem p) (selectRequest par d r) ++ frame par (pageMem par mem p) (pageRequest par d r p)

/-- Lines of host code run one after another in the same context, without another agent between. -/
def runLines : List HostAct → State → Res
  | [], s => .next s
  | a :: rest, s => andThen (runLine a s) (runLines rest)

end Sys2Proof.Machine
end

