-- ==== Sys2Proof/Certificates/Slice0/Obligations.lean ====
section
/-!
DEFINITION. The statements for the provers. Each docstring names the rule of spec/ it formalises, and
says where it rests on a decision of the spec or on a choice of the model.
-/

open Sys2Proof Sys2Proof.Machine

/-! ### Encoding -/

/-- Rules R71, R73, R76, R77, R83 and the model's operand lists of HOST and pseudo lines (log 12): at all
widths rule R6 admits, every well-formed operation is read back from its word, with every operand at every
value. -/
def Obligations.DecodeOfEncodeGivesTheOperation : Prop :=
  ∀ (W : Widths) (i : Instr), W.wf = true → i.wf W = true → decode W (encode W i) = .ok i

/-- The other direction, at all widths: a word that spells an operation is that operation's word. That a
HOST line carries its operands as a list and how pseudo-operations are numbered is the model's choice
(log 12, beside rule R83); CMD words are left out, whose unused `wdata` is not looked at (log 14). -/
def Obligations.EncodeOfDecodeGivesTheWord : Prop :=
  ∀ (W : Widths) (w : PortWord) (i : Instr), decode W w = .ok i → w.format ≠ .cmd → encode W i = w

/-- The words of vectors V2, V4, V6, V9, V9a and the admitted state codes of V1 spell the operations that
spec/95_test_vectors.md says, at the default widths. -/
def Obligations.WordsOfTheVectorsAreReadAsTheSpecSays : Prop :=
  decode Widths.default (.sub 0x7801000102000003000500AA01)
      = .ok (.submit { address := 0x78#8, pfx := 0x0100, pfxLen := 1, data := 0x0200, dataLen := 3,
                       cb := 0x0005, arg := 0x00AA, fastFail := true }) ∧
    decode Widths.default (.sub 0x78010002000000000010000000)
      = .ok (.submit { address := 0x78#8, pfx := 0x0100, pfxLen := 2, data := 0, dataLen := 0,
                       cb := 0x0010, arg := 0, fastFail := false }) ∧
    decode Widths.default (.sub 0x7A000000030000020012000001)
      = .ok (.submit { address := 0x7A#8, pfx := 0, pfxLen := 0, data := 0x0300, dataLen := 2,
                       cb := 0x0012, arg := 0, fastFail := true }) ∧
    decode Widths.default (.cmd 0x100#10) = .ok .busStart ∧
    decode Widths.default (.cmd 0x278#10) = .ok (.busWrite 0x78#8) ∧
    decode Widths.default (.cmd 0x240#10) = .ok (.busWrite 0x40#8) ∧
    decode Widths.default (.cmd 0x300#10) = .ok .busStop ∧
    decode Widths.default (.cpl 0x000500AA) = .ok (.complete 0x0005 0x00AA) ∧
    decode Widths.default (.cpl 0x00020050) = .ok (.cbRelease 0x0050) ∧
    decode Widths.default (.st 0b000#3) = .ok .evIdle ∧ decode Widths.default (.st 0b001#3) = .ok .evStop ∧
    decode Widths.default (.st 0b010#3) = .ok .evSlaveAddress ∧
    decode Widths.default (.st 0b011#3) = .ok .evWritePrefix ∧
    decode Widths.default (.st 0b100#3) = .ok .evWriteByte

/-- Rule R81 with rules R72, R73, R82 and R83: at all widths, reserved state codes, reserved SUB bits, SUB
and CPL words longer than their port's and reserved HOST ids spell nothing, each rejected under its own
name. -/
def Obligations.ReservedWordsAreRejectedByName : Prop :=
  ∀ W : Widths,
    (∀ w : BitVec 3, 5 ≤ w.toNat → decode W (.st w) = .error .reservedState) ∧
    (∀ w : Nat, w < 2 ^ subLength W → (∃ k, 1 ≤ k ∧ k ≤ 7 ∧ w.testBit k = true) →
      decode W (.sub w) = .error .reservedSubBits) ∧
    (∀ w : Nat, 2 ^ subLength W ≤ w → decode W (.sub w) = .error .wrongLength) ∧
    (∀ w : Nat, 2 ^ (W.cbW + W.argW) ≤ w → decode W (.cpl w) = .error .wrongLength) ∧
    (∀ (id : BitVec 4) (ops : List Nat), 7 ≤ id.toNat → decode W (.host id ops) = .error .reservedHostId)

/-! ### The step and the agents -/

/-- Rules R11, R30, R55, R120, R211: a step runs the operation its port's word spells. One clause per
agent, each with every other agent still: main-line's line; the event step that `state` selects,
between the taking of the event and the return; the bus engine's oldest command; the callback's line. -/
def Obligations.StepRunsTheDecodedOperation : Prop :=
  (∀ (s : State) (w : PortWord) (rest : List HostAct) (i : Instr), s.ctx = .main → s.evPending = false →
      engineReady s = false → s.main = .line w :: rest → portCarries .main w = true → decode s.par.widths w = .ok i →
      step s = exec i { s with main := rest }) ∧
    (∀ (s : State) (i : Instr), s.ctx = .main → s.evPending = true → engineReady s = false → s.main = [] →
      decode s.par.widths (.st (stateCode s.state)) = .ok i →
      step s = onNext closeWindow (exec i { s with evPending := false, ctx := .handler })) ∧
    (∀ (s : State) (w : BitVec 10) (rest : List Command) (i : Instr), s.ctx = .main → s.evPending = false →
      s.main = [] → s.cmdq = { word := w, stalls := false } :: rest → decode s.par.widths (.cmd w) = .ok i →
      step s = exec i { s with cmdq := rest }) ∧
    (∀ (s : State) (w : PortWord) (rest : List HostAct) (i : Instr), s.ctx = .handler → engineReady s = false →
      s.todo = .line w :: rest → portCarries .handler w = true →
      decode s.par.widths w = .ok i →
      step s = onNext closeWindow (exec i { s with todo := rest }))

/-- Rules R111 and R215 (decision D30): where an event is pending and main-line has a line, either goes
first, and nothing but the free value of this moment (log 7) decides which: the handler where it is even,
main-line where it is odd. -/
def Obligations.PendingEventAndMainlineInEitherOrder : Prop :=
  ∀ s : State, s.ctx = .main → s.evPending = true → s.main ≠ [] → engineReady s = false →
    step s =
      if Config.turn s.freeIx % 2 = 0 then runHandler { s with freeIx := s.freeIx + 1 }
      else runMainline { s with freeIx := s.freeIx + 1 }

/-- Rule R211 with rules R175, R180, R184: a client procedure that is no single atomic operation. Where an
event is pending or can come before main-line's next line, its lines take its place among main-line's, so
that the handler may come between any two of them; run one after another without another agent between,
those of DISPLAY.INIT of an admitted size, of REFRESH.START, and of BRIGHTNESS.SET with the lock free, do
what the procedure does in one step, for every display reference that the decoder lets a line name. That
preemption falls between the lines of the pseudocode, and that the procedure is one step where nothing can
come, is the model's choice (log 16). -/
def Obligations.ProcedureRunsLineByLineWhereTheHandlerMayCome : Prop :=
  (∀ (s : State) (w : PortWord) (rest : List HostAct) (i : Instr) (lines : List HostAct),
    s.main = .line w :: rest → (s.evPending = true ∨ engineReady s = true) → decode s.par.widths w = .ok i →
    partsOf s.par i = some lines → runMainline s = .next { s with main := lines ++ rest }) ∧
  ∀ (s : State) (d : Arg) (width height : Nat) (fb : Addr) (freq : Nat) (busAddr : BitVec 8) (level : Byte),
    d < 2 ^ s.par.widths.argW →
    (height % 8 = 0 → 8 ≤ height → height ≤ 64 → 1 ≤ width →
      fb + width * (height / 8) ≤ 2 ^ s.par.widths.ptrW →
      ∃ lines, partsOf s.par (.displayInit d width height fb freq busAddr) = some lines ∧
        runLines lines s = exec (.displayInit d width height fb freq busAddr) s) ∧
    (∃ lines, partsOf s.par (.refreshStart d) = some lines ∧ runLines lines s = exec (.refreshStart d) s) ∧
    ((s.display d).lock = false →
      ∃ lines, partsOf s.par (.brightnessSet d level) = some lines ∧
        runLines lines s = exec (.brightnessSet d level) s)

/-- Rules R23, R212: while the handler window is open no main-line line runs, and an event that is
pending is held. -/
def Obligations.OpenWindowHoldsEventsAndMainline : Prop :=
  ∀ s t : State, s.ctx = .handler → step s = .next t →
    t.main = s.main ∧ (s.evPending = true → t.evPending = true)

/-- Rules R211, R213: the handler's move consumes the event; it ends in Main exactly when the
callback it invoked, if any, has no line left. -/
def Obligations.HandlerConsumesTheEventAndReturns : Prop :=
  ∀ s t : State, runHandler s = .next t → t.evPending = false ∧ (t.ctx = .main ↔ t.todo = [])

/-- Rules R209, R255: with no agent able to move, a step changes nothing: a stalled bus is a hang,
never a fault. -/
def Obligations.StalledBusHangsForEver : Prop :=
  ∀ s : State, s.stuckBus = true → s.ctx = .main → s.main = [] → step s = .next s

/-- Rule R23, R213 as the model keeps them between steps: in context Main no callback has a line
left. -/
def Obligations.MainContextHasNoCallbackLine : Prop :=
  ∀ s t : State, WindowOpen s → step s = .next t → WindowOpen t

/-! ### SUBMIT -/

/-- Rule R105 with rule R48: the model's check finds no flaw exactly in the well-formed submissions. -/
def Obligations.SubmissionIsAdmittedIffContractMet : Prop :=
  ∀ (s : State) (q : Submission), submitFlaw s q = none ↔ ContractMet s q

/-- Rule R103: an accepted SUBMIT captures the eight operands, moves `state` to SlaveAddress, commands
START and answers 1; nothing else changes. On both ports. -/
def Obligations.AcceptedSubmitCapturesAndStarts : Prop :=
  ∀ (s : State) (q : Submission), ContractMet s q → s.state = .idle →
    ∀ i : Instr, i = .submit q ∨ i = .submitHost q →
      exec i s = .next
        { s with
          req := { address := q.address, prefixPtr := q.pfx, prefixRem := q.pfxLen, dataPtr := q.data,
                   dataRem := q.dataLen, cb := q.cb, cbArg := q.arg, fastFail := q.fastFail }
          state := .slaveAddress
          cmdq := handed s 0x100#10
          wireTrace := s.wireTrace ++ [.start]
          answer := some .ok
          freeIx := s.freeIx + 1 }

/-- Rule R104 (vectors V11 to V14): a rejected SUBMIT changes nothing; it answers 0. For
`P_FASTFAIL0_BLOCKS` = false, or with `fastFail` = 1 (rule R107). -/
def Obligations.RejectedSubmitChangesNothing : Prop :=
  ∀ (s : State) (q : Submission), ContractMet s q → s.state ≠ .idle →
    (s.par.fastFail0Blocks = false ∨ q.fastFail = true) →
    ∀ i : Instr, i = .submit q ∨ i = .submitHost q → exec i s = .next { s with answer := some .busy }

/-- Rule R107 (decision D8, conflict C1): with `P_FASTFAIL0_BLOCKS` = true a SUBMIT with `fastFail` = 0
that finds the bus busy does not return; it stands again as the next line of its context. -/
def Obligations.BlockingSubmitIsRepeated : Prop :=
  ∀ (s : State) (q : Submission), ContractMet s q → s.state ≠ .idle → s.par.fastFail0Blocks = true →
    q.fastFail = false →
    exec (.submit q) s = .next (nextLine s (.line (.sub (encodeSub s.par.widths q)))) ∧
      exec (.submitHost q) s = .next (nextLine s (.line (.host 0#4 [encodeSub s.par.widths q])))

/-- Rules R105, R112: an ill-formed submission is refused whatever `state` is, for every operation
that offers its operands: SUBMIT on both ports, SUBMIT.SPIN, and SUBMIT.CMD and SUBMIT.PAGE where the
submission is their expansion (rule R88). -/
def Obligations.IllFormedSubmissionIsRefused : Prop :=
  ∀ (s : State) (q : Submission), ¬ContractMet s q →
    ∀ i : Instr,
      (i = .submit q ∨ i = .submitHost q ∨ i = .submitSpin q ∨
        (i = .submitCmd q.address q.pfx q.pfxLen q.cb q.arg ∧ q.data = 0 ∧ q.dataLen = 0 ∧ q.fastFail = false) ∨
        (i = .submitPage q.address q.pfx q.data q.dataLen q.cb q.arg ∧ q.pfxLen = 1 ∧ q.fastFail = false)) →
      ∃ f, exec i s = .refused (.illFormedSubmission f)

/-- Rule R88: a SUBMIT.SPIN, SUBMIT.CMD or SUBMIT.PAGE offered in Idle is accepted as the SUBMIT of
its expansion; it returns no outcome (rule R189). -/
def Obligations.SpinInIdleSubmitsItsExpansion : Prop :=
  ∀ (s : State) (q : Submission), ContractMet s q → s.state = .idle →
    ∀ i : Instr,
      (i = .submitSpin q ∨
        (i = .submitCmd q.address q.pfx q.pfxLen q.cb q.arg ∧ q.data = 0 ∧ q.dataLen = 0 ∧ q.fastFail = false) ∨
        (i = .submitPage q.address q.pfx q.data q.dataLen q.cb q.arg ∧ q.pfxLen = 1 ∧ q.fastFail = false)) →
      exec i s = .next
        { s with
          req := { address := q.address, prefixPtr := q.pfx, prefixRem := q.pfxLen, dataPtr := q.data,
                   dataRem := q.dataLen, cb := q.cb, cbArg := q.arg, fastFail := q.fastFail }
          state := .slaveAddress
          cmdq := handed s 0x100#10
          wireTrace := s.wireTrace ++ [.start]
          freeIx := s.freeIx + 1 }

/-- Rule R88: while the bus is busy a spin changes nothing but that a SUBMIT.SPIN of the same operands
stands next in the context it runs in. -/
def Obligations.SpinWhileBusyIsRepeated : Prop :=
  ∀ (s : State) (q : Submission), ContractMet s q → s.state ≠ .idle →
    ∀ i : Instr,
      (i = .submitSpin q ∨
        (i = .submitCmd q.address q.pfx q.pfxLen q.cb q.arg ∧ q.data = 0 ∧ q.dataLen = 0 ∧ q.fastFail = false) ∨
        (i = .submitPage q.address q.pfx q.data q.dataLen q.cb q.arg ∧ q.pfxLen = 1 ∧ q.fastFail = false)) →
      exec i s = .next (nextLine s (.line (encode s.par.widths (.submitSpin q))))

/-! ### The event steps -/

/-- Rule R124 (decisions D7 and D9): the address byte is written, and the presence of the runs decides
the next state. -/
def Obligations.AddressStepWritesAddressAndSelectsRun : Prop :=
  ∀ (s : State) (next : BusState),
    ((s.req.prefixRem = 0 ∧ s.req.dataRem = 0 ∧ next = .stop) ∨
      (s.req.prefixRem = 0 ∧ s.req.dataRem ≠ 0 ∧ next = .writeByte) ∨
      (s.req.prefixRem ≠ 0 ∧ next = .writePrefix)) →
    exec .evSlaveAddress s = .next
      { s with
        state := next
        cmdq := handed s (0x200#10 ||| (addrByte s.par s.req.address).setWidth 10)
        wireTrace := s.wireTrace ++ [.write (addrByte s.par s.req.address)]
        freeIx := s.freeIx + 1 }

/-- Rules R80, R124 (decision D9): `ADDR_BYTE` is the identity where the parameter lists no exception for
the operand; otherwise it is the byte of the first entry for it, wherever that stands. The finite list as
the form of the parameter is the model's choice (log 6). -/
def Obligations.AddressByteIsTheOperandByDefault : Prop :=
  ∀ (p : Params) (a : BitVec 8),
    ((∀ b, (a, b) ∉ p.addrMap) → addrByte p a = a) ∧
      (∀ (b : Byte) (before after : List (BitVec 8 × Byte)), p.addrMap = before ++ (a, b) :: after →
        (∀ c, (a, c) ∉ before) → addrByte p a = b)

/-- Rule R125: EV.WRITEPREFIX, the step of code 011, reads the byte at the cursor as it is now and writes
it, moves the cursor and the count by one, modulo their widths (rule R130), and chooses the next state by
the count after the decrement. No operand is left out: entered with a count of zero, which no well-formed
submission reaches (U5), the decrement wraps. The read trace is the model's own ghost (log 11), and whether
the bus engine stalls on the WRITE a free value (log 7). -/
def Obligations.PrefixStepSendsOneByte : Prop :=
  (∀ W : Widths, decode W (.st 0b011#3) = .ok .evWritePrefix) ∧
  ∀ (s : State) (rem : Nat) (next : BusState),
    rem = (s.req.prefixRem + (2 ^ s.par.widths.plenW - 1)) % 2 ^ s.par.widths.plenW →
    ((rem ≠ 0 ∧ next = .writePrefix) ∨ (rem = 0 ∧ s.req.dataRem ≠ 0 ∧ next = .writeByte) ∨
      (rem = 0 ∧ s.req.dataRem = 0 ∧ next = .stop)) →
    exec .evWritePrefix s = .next
      { s with
        state := next
        req := { s.req with
          prefixPtr := (s.req.prefixPtr + 1) % 2 ^ s.par.widths.ptrW
          prefixRem := rem }
        cmdq := handed s (0x200#10 ||| (Memory.read s.par s.mem s.req.prefixPtr).setWidth 10)
        wireTrace := s.wireTrace ++ [.write (Memory.read s.par s.mem s.req.prefixPtr)]
        readTrace := s.readTrace ++ [s.req.prefixPtr]
        freeIx := s.freeIx + 1 }

/-- Rule R126: EV.WRITEBYTE, the step of code 100, the same for the payload run: at zero after the
decrement the next state is Stop. No operand is left out (U5). Read trace and stall as in
`Obligations.PrefixStepSendsOneByte`. -/
def Obligations.PayloadStepSendsOneByte : Prop :=
  (∀ W : Widths, decode W (.st 0b100#3) = .ok .evWriteByte) ∧
  ∀ (s : State) (rem : Nat) (next : BusState),
    rem = (s.req.dataRem + (2 ^ s.par.widths.dlenW - 1)) % 2 ^ s.par.widths.dlenW →
    ((rem ≠ 0 ∧ next = .writeByte) ∨ (rem = 0 ∧ next = .stop)) →
    exec .evWriteByte s = .next
      { s with
        state := next
        req := { s.req with
          dataPtr := (s.req.dataPtr + 1) % 2 ^ s.par.widths.ptrW
          dataRem := rem }
        cmdq := handed s (0x200#10 ||| (Memory.read s.par s.mem s.req.dataPtr).setWidth 10)
        wireTrace := s.wireTrace ++ [.write (Memory.read s.par s.mem s.req.dataPtr)]
        readTrace := s.readTrace ++ [s.req.dataPtr]
        freeIx := s.freeIx + 1 }

/-- Rules R121, R122, R150, R186: EV.STOP, and EV.IDLE the same, commands STOP, sets Idle and invokes
`C(req.cb, req.cb_arg)` in handler context; with CB.NOP nothing more happens, and a routine of the
host's own table has its lines to run. Rule R150 runs the routine to its return; that its body stands as
lines which later steps run, the handler window staying open, is the model's choice (log 22, with log 2).
Identifiers 2 to 4 are those of `Obligations.EndOfTransactionIsStopThenComplete` with
`Obligations.CompleteSelectsTheClientCallback`. -/
def Obligations.EndOfTransactionStopsAndInvokes : Prop :=
  ∀ (s : State) (i : Instr), i = .evStop ∨ i = .evIdle →
    (s.req.cb = 1 →
      exec i s = .next
        { s with
          state := .idle
          cmdq := handed s 0x300#10
          wireTrace := s.wireTrace ++ [.stop]
          complTrace := s.complTrace ++ [{ cb := 1, arg := s.req.cbArg }]
          ctx := .handler
          freeIx := s.freeIx + 1 }) ∧
    (∀ body : List HostAct, 5 ≤ s.req.cb → s.routines.lookup s.req.cb = some body →
      exec i s = .next
        { s with
          state := .idle
          cmdq := handed s 0x300#10
          wireTrace := s.wireTrace ++ [.stop]
          complTrace := s.complTrace ++ [{ cb := s.req.cb, arg := s.req.cbArg }]
          ctx := .handler
          todo := body.map (bindArg s.par.widths s.req.cbArg) ++ s.todo
          freeIx := s.freeIx + 1 })

/-- Rules R121, R122, R150: whatever routine `req.cb` names, the end of a transaction is STOP, Idle and
then COMPLETE of the values `req.cb` and `req.cb_arg` had before. -/
def Obligations.EndOfTransactionIsStopThenComplete : Prop :=
  ∀ (s : State) (i : Instr), i = .evStop ∨ i = .evIdle →
    exec i s = exec (.complete s.req.cb s.req.cbArg)
      { s with
        state := .idle
        cmdq := handed s 0x300#10
        wireTrace := s.wireTrace ++ [.stop]
        freeIx := s.freeIx + 1 }

/-- Rules R121 (b), R32, U2 (vector V27): invoking `NONE` is a fault; invoking an identifier that names
no routine is refused (U3). That `req.cb` is `NONE` before any accepted SUBMIT is the model's reset
value (log 3). -/
def Obligations.InvokingNoRoutineStops : Prop :=
  ∀ (s : State) (i : Instr), i = .evStop ∨ i = .evIdle →
    (s.req.cb = 0 → exec i s = .fault .noCallback) ∧
      (5 ≤ s.req.cb → s.routines.lookup s.req.cb = none → exec i s = .refused .notARoutine)

/-- Rules R63, R129, R207: how the last bus command ended enters no operation: two states that differ
in it alone are taken to the same outcome, but for it. -/
def Obligations.NoOperationReadsTheBusStatus : Prop :=
  ∀ (i : Instr) (s : State) (b : BusStatus),
    onNext (fun t => { t with status := .acknowledged }) (exec i { s with status := b })
      = onNext (fun t => { t with status := .acknowledged }) (exec i s)

/-- Rule R27: `state` and the request registers change only in an event step or in an accepted
submission, which takes Idle to SlaveAddress. Outside the event steps the lock operations, CB.NOP,
CB.RELEASE and the bus engine's commands, which submit nothing, change neither; every other operation
changes them by an accepted submission alone. -/
def Obligations.StateChangesOnlyInEventStepsOrAcceptance : Prop :=
  ∀ (i : Instr) (s t : State), i.format ≠ .st → exec i s = .next t →
    ((t.state = s.state ∧ t.req = s.req) ∨ (s.state = .idle ∧ t.state = .slaveAddress)) ∧
    ((i.format = .cmd ∨
        ∃ d, i = .lockAcquire d ∨ i = .lockTry d ∨ i = .lockRelease d ∨ i = .cbNop d ∨ i = .cbRelease d) →
      t.state = s.state ∧ t.req = s.req)

/-- Rule R41 and the write rules of the clients (R84, R184): no operation writes any byte of host
memory but `SELBUF[SEL_PAGE_INDEX]` and `BRIGHTBUF[3]`; the event steps of a transaction's bytes, SUBMIT
and the bus commands write none. -/
def Obligations.OnlyTheCommandBuffersAreWritten : Prop :=
  ∀ (i : Instr) (s t : State), exec i s = .next t →
    (∀ a : Addr, a ≠ (s.par.selBuf + s.par.selPageIndex) % 2 ^ s.par.widths.ptrW →
      a ≠ (s.par.brightBuf + 3) % 2 ^ s.par.widths.ptrW → t.readByte a = s.readByte a) ∧
    ((i = .evSlaveAddress ∨ i = .evWritePrefix ∨ i = .evWriteByte ∨ i.format = .sub ∨ i.format = .cmd) →
      t.mem = s.mem)

/-- Rules R6 and R150: no operation changes the parameters or the callback table. -/
def Obligations.ParametersAndCallbackTableAreFixed : Prop :=
  ∀ (i : Instr) (s t : State), exec i s = .next t → t.par = s.par ∧ t.routines = s.routines

/-! ### The bus engine -/

/-- Rules R55 to R57, R76, R81: START and WRITE are performed and raise one event; STOP is performed
and raises none; the empty command does nothing. How a command ended is a free value (log 7). -/
def Obligations.BusCommandsRaiseTheirEvents : Prop :=
  ∀ (s : State) (b : Byte),
    exec .busStart s = .next
        { s with wires := s.wires ++ [.start], evPending := true, status := Config.busStatus s.freeIx,
                 freeIx := s.freeIx + 1 } ∧
      exec (.busWrite b) s = .next
        { s with wires := s.wires ++ [.write b], evPending := true, status := Config.busStatus s.freeIx,
                 freeIx := s.freeIx + 1 } ∧
      exec .busStop s = .next
        { s with wires := s.wires ++ [.stop], status := Config.busStatus s.freeIx, freeIx := s.freeIx + 1 } ∧
      exec .busNone s = .next s

/-! ### COMPLETE and the callbacks -/

/-- Rule R150: COMPLETE appends `C(cb, arg)` and starts the routine of the host's own table with its
argument in handler context; its body stands as lines which later steps run (the model's choice, logs 2
and 22). -/
def Obligations.CompleteRunsTheHostRoutine : Prop :=
  ∀ (s : State) (cb : CbId) (arg : Arg) (body : List HostAct), 5 ≤ cb → s.routines.lookup cb = some body →
    exec (.complete cb arg) s = .next
      { s with
        complTrace := s.complTrace ++ [{ cb := cb, arg := arg }]
        ctx := .handler
        todo := body.map (bindArg s.par.widths arg) ++ s.todo }

/-- Rules R77, R150: COMPLETE of a client identifier runs that client callback; `NONE` faults (U2) and
an identifier of no routine is refused (U3). -/
def Obligations.CompleteSelectsTheClientCallback : Prop :=
  ∀ (s : State) (arg : Arg),
    (∀ (cb : CbId) (i : Instr),
      ((cb = 1 ∧ i = .cbNop arg) ∨ (cb = 2 ∧ i = .cbRelease arg) ∨ (cb = 3 ∧ i = .cbSelectDone arg) ∨
        (cb = 4 ∧ i = .cbXferDone arg)) →
      exec (.complete cb arg) s
        = exec i { s with complTrace := s.complTrace ++ [{ cb := cb, arg := arg }], ctx := .handler }) ∧
    exec (.complete 0 arg) s = .fault .noCallback ∧
    (∀ cb : CbId, 5 ≤ cb → s.routines.lookup cb = none → exec (.complete cb arg) s = .refused .notARoutine)

/-- Rule R186: CB.NOP returns at once and changes nothing. -/
def Obligations.NopCallbackChangesNothing : Prop :=
  ∀ (s : State) (arg : Arg), exec (.cbNop arg) s = .next s

/-- Rule R185 with rule R173: CB.RELEASE, identifier 0x0002 with argument `d`, and LOCK.RELEASE free the
lock of `d`, held or not, and change nothing else. -/
def Obligations.ReleaseFreesTheLockAlone : Prop :=
  ∀ (s : State) (d : Arg),
    (s.par.widths.wf = true → d < 2 ^ s.par.widths.argW →
      decode s.par.widths (.cpl (0x0002 * 2 ^ s.par.widths.argW + d)) = .ok (.cbRelease d)) ∧
    ∀ i : Instr, i = .cbRelease d ∨ i = .lockRelease d →
      ∃ t, exec i s = .next t ∧ t = { s with displays := t.displays } ∧
        t.display d = { s.display d with lock := false } ∧ ∀ e, e ≠ d → t.display e = s.display e

/-- Rule R181 (vector V60): CB.SELECT_DONE in Idle submits the page at the cursor with the data prefix,
accepted at its first attempt (rule R152). -/
def Obligations.SelectDoneSubmitsThePage : Prop :=
  ∀ (s : State) (d : Arg), s.par.widths.wf = true → s.state = .idle → d < 2 ^ s.par.widths.argW →
    (s.display d).width < 2 ^ s.par.widths.dlenW → RunMet s.par s.par.dataPfx 1 →
    RunMet s.par ((s.display d).fb + (s.display d).cursor * (s.display d).width) (s.display d).width →
    exec (.cbSelectDone d) s = .next
      { s with
        state := .slaveAddress
        req := { address := (s.display d).busAddr, prefixPtr := s.par.dataPfx, prefixRem := 1,
                 dataPtr := (s.display d).fb + (s.display d).cursor * (s.display d).width,
                 dataRem := (s.display d).width, cb := 4, cbArg := d, fastFail := false }
        cmdq := handed s 0x100#10
        wireTrace := s.wireTrace ++ [.start]
        freeIx := s.freeIx + 1 }

/-- Rules R48, R105, R181: CB.SELECT_DONE of a page whose request breaks the caller contract is refused as
every ill-formed submission is; a page that passes the top of the address space, which no admitted display
has (rule R175), is refused because it wraps. -/
def Obligations.SelectDonePastTheTopIsRefused : Prop :=
  ∀ (s : State) (d : Arg),
    (¬ContractMet s (pageRequest s.par d (s.display d) (s.display d).cursor) →
      ∃ f, exec (.cbSelectDone d) s = .refused (.illFormedSubmission f)) ∧
    (RunMet s.par s.par.dataPfx 1 → 1 ≤ (s.display d).width →
      (s.display d).fb + (s.display d).cursor * (s.display d).width ≠ 0 →
      2 ^ s.par.widths.ptrW <
        (s.display d).fb + (s.display d).cursor * (s.display d).width + (s.display d).width →
      exec (.cbSelectDone d) s = .refused (.illFormedSubmission (.ofData .wraps)))

/-- Rules R181, R182, R245 (U10): a client callback whose submission finds the bus busy, which no chain
under the bus engine contract meets, spins. That its SUBMIT.SPIN then stands as the next line of the open
window, the callback's earlier parts done, is the model's choice (log 22). -/
def Obligations.CallbackSpinsWhileBusy : Prop :=
  ∀ (s : State) (d : Arg), s.par.widths.wf = true → s.state ≠ .idle → d < 2 ^ s.par.widths.argW →
    ((s.display d).width < 2 ^ s.par.widths.dlenW → RunMet s.par s.par.dataPfx 1 →
      RunMet s.par ((s.display d).fb + (s.display d).cursor * (s.display d).width) (s.display d).width →
      exec (.cbSelectDone d) s = .next (nextLine s
        (.line (encode s.par.widths (.submitSpin (pageRequest s.par d (s.display d) (s.display d).cursor)))))) ∧
    ((s.display d).cursor + 1 ≠ (s.display d).pageCount → RunMet s.par s.par.selBuf 6 →
      ∃ t, exec (.cbXferDone d) s = .next t ∧
        t = nextLine { s with displays := t.displays, mem := t.mem }
          (.line (encode s.par.widths (.submitSpin (selectRequest s.par d (s.display d))))) ∧
        t.display d = { s.display d with cursor := (s.display d).cursor + 1 } ∧
        (∀ e, e ≠ d → t.display e = s.display e) ∧
        (∀ a, t.readByte a = Memory.read s.par (pageMem s.par s.mem ((s.display d).cursor + 1)) a))

/-- Rule R182 (vector V62): the completion of the last page advances the cursor to `page_count`,
releases the lock and submits nothing. That the cursor holds `page_count` is rule R182's own sentence; no
other statement rests on it once the lock is free (U6, log 13). -/
def Obligations.LastPageReleasesTheLock : Prop :=
  ∀ (s : State) (d : Arg), (s.display d).cursor + 1 = (s.display d).pageCount →
    ∃ t, exec (.cbXferDone d) s = .next t ∧ t = { s with displays := t.displays } ∧
      t.display d = { s.display d with cursor := (s.display d).pageCount, lock := false } ∧
      ∀ e, e ≠ d → t.display e = s.display e

/-- Rules R182, R176, R84 (vector V61): the completion of any other page advances the cursor, patches
the select-page command and submits it, accepted in Idle. For a page of 256 or more the patched byte is a
free value (log 26). -/
def Obligations.OtherPageSelectsTheNext : Prop :=
  ∀ (s : State) (d : Arg), s.par.widths.wf = true → (s.display d).cursor + 1 ≠ (s.display d).pageCount →
    s.state = .idle → d < 2 ^ s.par.widths.argW → RunMet s.par s.par.selBuf 6 →
    ∃ t, exec (.cbXferDone d) s = .next t ∧
      t = { s with
        state := .slaveAddress
        req := { address := (s.display d).busAddr, prefixPtr := s.par.selBuf, prefixRem := 6, dataPtr := 0,
                 dataRem := 0, cb := 3, cbArg := d, fastFail := false }
        displays := t.displays
        mem := t.mem
        cmdq := handed s 0x100#10
        wireTrace := s.wireTrace ++ [.start]
        freeIx := s.freeIx + 1 } ∧
      t.display d = { s.display d with cursor := (s.display d).cursor + 1 } ∧
      (∀ e, e ≠ d → t.display e = s.display e) ∧
      t.readByte ((s.par.selBuf + s.par.selPageIndex) % 2 ^ s.par.widths.ptrW)
        = pageByte s.par ((s.display d).cursor + 1) ∧
      ∀ a, a ≠ (s.par.selBuf + s.par.selPageIndex) % 2 ^ s.par.widths.ptrW → t.readByte a = s.readByte a

/-- Rules R152, R153, R155 (vectors V40, V41): the first SUBMIT of a callback is accepted, its START
right after the STOP of the transaction that ended, and a second is rejected. For a routine of the
host's own table whose body is two SUBMIT lines (as lines: log 2), the bus engine outstanding or not. -/
def Obligations.CallbackStartsExactlyOneTransaction : Prop :=
  ∀ (s : State) (q r : Submission), s.state = .stop → s.todo = [] → 5 ≤ s.req.cb →
    s.routines.lookup s.req.cb
      = some [.line (.sub (encodeSub s.par.widths q)), .line (.sub (encodeSub s.par.widths r))] →
    ContractMet s q → ContractMet s r → s.par.fastFail0Blocks = false →
    ∃ t u v, runHandler s = .next t ∧ runCallback t = .next u ∧ runCallback u = .next v ∧
      t.ctx = .handler ∧ u.ctx = .handler ∧ u.answer = some .ok ∧ v.answer = some .busy ∧ v.ctx = .main ∧
      v.wireTrace = s.wireTrace ++ [.stop, .start] ∧ v.req = u.req ∧ v.req.cb = q.cb ∧ v.state = .slaveAddress

/-! ### The lock -/

/-- Rule R172 (vectors V50, V51): LOCK.TRY claims a free lock and answers Ok; a held lock gives Busy and
nothing changes. -/
def Obligations.TryLockClaimsOrAnswersBusy : Prop :=
  ∀ (s : State) (d : Arg),
    ((s.display d).lock = true → exec (.lockTry d) s = .next { s with answer := some .busy }) ∧
    ((s.display d).lock = false → ∃ t, exec (.lockTry d) s = .next t ∧
      t = { s with displays := t.displays, answer := some .ok } ∧
      t.display d = { s.display d with lock := true } ∧ ∀ e, e ≠ d → t.display e = s.display e)

/-- Rule R171: LOCK.ACQUIRE returns once it has claimed the lock; while the lock is held it stands
again as the next line of its context. -/
def Obligations.AcquireClaimsOrPolls : Prop :=
  ∀ (s : State) (d : Arg),
    ((s.display d).lock = false → ∃ t, exec (.lockAcquire d) s = .next t ∧
      t = { s with displays := t.displays } ∧
      t.display d = { s.display d with lock := true } ∧ ∀ e, e ≠ d → t.display e = s.display e) ∧
    ((s.display d).lock = true →
      exec (.lockAcquire d) s = .next (nextLine s (.line (encode s.par.widths (.lockAcquire d)))))

/-- Rules R171, R245 (vector V56): in handler context LOCK.ACQUIRE of a held lock never returns: the
callback's step leads back to the same state. -/
def Obligations.AcquireInHandlerNeverReturns : Prop :=
  ∀ (s : State) (d : Arg) (rest : List HostAct), s.ctx = .handler → (s.display d).lock = true →
    engineReady s = false → d < 2 ^ s.par.widths.argW →
    s.todo = .line (encode s.par.widths (.lockAcquire d)) :: rest → step s = .next s

/-! ### DISPLAY.INIT, REFRESH.START, BRIGHTNESS.SET -/

/-- Rule R175 (vectors V57, V58): DISPLAY.INIT of an admitted size fills the record and frees the lock;
in Idle the bring-up transaction is started and the outcome is Ok, else it is Busy and TXE is
untouched. The cursor is left alone. -/
def Obligations.DisplayInitFillsTheRecordAndTriesOnce : Prop :=
  ∀ (s : State) (d : Arg) (width height : Nat) (fb : Addr) (freq : Nat) (busAddr : BitVec 8),
    s.par.widths.wf = true → d < 2 ^ s.par.widths.argW →
    height % 8 = 0 → 8 ≤ height → height ≤ 64 → 1 ≤ width →
    fb + width * (height / 8) ≤ 2 ^ s.par.widths.ptrW →
    s.par.initBytes.length < 2 ^ s.par.widths.plenW → RunMet s.par s.par.initSeq s.par.initBytes.length →
    ∃ t, exec (.displayInit d width height fb freq busAddr) s = .next t ∧
      t.display d = { width := width, height := height, pageCount := height / 8, busAddr := busAddr,
                      cursor := (s.display d).cursor, fb := fb, lock := false } ∧
      (∀ e, e ≠ d → t.display e = s.display e) ∧
      (s.state = .idle →
        t = { s with
          displays := t.displays
          busFreq := freq
          state := .slaveAddress
          req := { address := busAddr, prefixPtr := s.par.initSeq, prefixRem := s.par.initBytes.length,
                   dataPtr := 0, dataRem := 0, cb := 1, cbArg := d, fastFail := true }
          cmdq := handed s 0x100#10
          wireTrace := s.wireTrace ++ [.start]
          answer := some .ok
          freeIx := s.freeIx + 1 }) ∧
      (s.state ≠ .idle → t = { s with displays := t.displays, busFreq := freq, answer := some .busy })

/-- Rule R175, U9 (vector V59): a size that is not admitted is refused. -/
def Obligations.DisplayInitOfOtherSizesIsRefused : Prop :=
  ∀ (s : State) (d : Arg) (width height : Nat) (fb : Addr) (freq : Nat) (busAddr : BitVec 8),
    (height % 8 ≠ 0 ∨ height < 8 ∨ 64 < height ∨ width = 0 ∨
      2 ^ s.par.widths.ptrW < fb + width * (height / 8)) →
    exec (.displayInit d width height fb freq busAddr) s = .refused .inadmissibleDisplay

/-- Rules R180, R176, R84: REFRESH.START in Idle sets the cursor to 0, patches page 0 into SELBUF and
starts the select-page transaction; the lock is not looked at (rule R174). -/
def Obligations.RefreshStartSelectsPageZero : Prop :=
  ∀ (s : State) (d : Arg), s.par.widths.wf = true → s.state = .idle → d < 2 ^ s.par.widths.argW →
    RunMet s.par s.par.selBuf 6 →
    ∃ t, exec (.refreshStart d) s = .next t ∧
      t = { s with
        state := .slaveAddress
        req := { address := (s.display d).busAddr, prefixPtr := s.par.selBuf, prefixRem := 6, dataPtr := 0,
                 dataRem := 0, cb := 3, cbArg := d, fastFail := false }
        displays := t.displays
        mem := t.mem
        cmdq := handed s 0x100#10
        wireTrace := s.wireTrace ++ [.start]
        freeIx := s.freeIx + 1 } ∧
      t.display d = { s.display d with cursor := 0 } ∧ (∀ e, e ≠ d → t.display e = s.display e) ∧
      t.readByte ((s.par.selBuf + s.par.selPageIndex) % 2 ^ s.par.widths.ptrW)
        = s.par.selTemplate.getD s.par.selPageIndex 0#8 &&& 0xF0#8 ∧
      ∀ a, a ≠ (s.par.selBuf + s.par.selPageIndex) % 2 ^ s.par.widths.ptrW → t.readByte a = s.readByte a

/-- Rules R180, R242: while the bus is busy REFRESH.START has already set the cursor and patched SELBUF
when its first attempt is rejected; the attempt stands again as the next line of its context. -/
def Obligations.RefreshStartWhileBusySpins : Prop :=
  ∀ (s : State) (d : Arg), s.par.widths.wf = true → s.state ≠ .idle → d < 2 ^ s.par.widths.argW →
    RunMet s.par s.par.selBuf 6 →
    ∃ t, exec (.refreshStart d) s = .next t ∧
      t = nextLine { s with displays := t.displays, mem := t.mem }
        (.line (encode s.par.widths (.submitSpin (selectRequest s.par d (s.display d))))) ∧
      t.display d = { s.display d with cursor := 0 } ∧ (∀ e, e ≠ d → t.display e = s.display e) ∧
      t.readByte ((s.par.selBuf + s.par.selPageIndex) % 2 ^ s.par.widths.ptrW)
        = s.par.selTemplate.getD s.par.selPageIndex 0#8 &&& 0xF0#8 ∧
      ∀ a, a ≠ (s.par.selBuf + s.par.selPageIndex) % 2 ^ s.par.widths.ptrW → t.readByte a = s.readByte a

/-- Rule R184 (vector V63): BRIGHTNESS.SET with the lock free and the bus idle claims the lock, patches
the level into BRIGHTBUF[3] and starts the brightness transaction. -/
def Obligations.BrightnessSetClaimsPatchesAndSubmits : Prop :=
  ∀ (s : State) (d : Arg) (level : Byte), s.par.widths.wf = true → (s.display d).lock = false →
    s.state = .idle → d < 2 ^ s.par.widths.argW → RunMet s.par s.par.brightBuf 4 →
    ∃ t, exec (.brightnessSet d level) s = .next t ∧
      t = { s with
        state := .slaveAddress
        req := { address := (s.display d).busAddr, prefixPtr := s.par.brightBuf, prefixRem := 4, dataPtr := 0,
                 dataRem := 0, cb := 2, cbArg := d, fastFail := false }
        displays := t.displays
        mem := t.mem
        cmdq := handed s 0x100#10
        wireTrace := s.wireTrace ++ [.start]
        freeIx := s.freeIx + 1 } ∧
      t.display d = { s.display d with lock := true } ∧ (∀ e, e ≠ d → t.display e = s.display e) ∧
      t.readByte ((s.par.brightBuf + 3) % 2 ^ s.par.widths.ptrW) = level ∧
      ∀ a, a ≠ (s.par.brightBuf + 3) % 2 ^ s.par.widths.ptrW → t.readByte a = s.readByte a

/-- Rules R184, R187 (T7): while the lock is held BRIGHTNESS.SET changes nothing but that it stands again
as the next line of its context; with the lock free and the bus busy it holds the lock, has patched the
level, and its submission stands as that next line. -/
def Obligations.BrightnessSetIsDeferred : Prop :=
  ∀ (s : State) (d : Arg) (level : Byte),
    ((s.display d).lock = true →
      exec (.brightnessSet d level) s = .next (nextLine s (.line (encode s.par.widths (.brightnessSet d level))))) ∧
    (s.par.widths.wf = true → (s.display d).lock = false → s.state ≠ .idle → d < 2 ^ s.par.widths.argW →
      RunMet s.par s.par.brightBuf 4 →
      ∃ t, exec (.brightnessSet d level) s = .next t ∧
        t = nextLine { s with displays := t.displays, mem := t.mem }
          (.line (encode s.par.widths (.submitSpin (brightRequest s.par d (s.display d))))) ∧
        t.display d = { s.display d with lock := true } ∧
        t.readByte ((s.par.brightBuf + 3) % 2 ^ s.par.widths.ptrW) = level ∧
        (∀ e, e ≠ d → t.display e = s.display e) ∧
        ∀ a, a ≠ (s.par.brightBuf + 3) % 2 ^ s.par.widths.ptrW → t.readByte a = s.readByte a)

/-! ### Memory -/

/-- Rules R44, R51, R151: a line MEMW of host code is a host store, seen by every later read of its byte
and by no other, and changes nothing else; an assignment to the client state of a display writes the record
of that display as the assignment says, and nothing else (rule R28). A store to an address of more than
`PTR_W` bits faults (log 25), and an assignment of a reference or of a frame buffer address that does not
fit its width is refused (log 29), both the model's choice; lines as data are the model's choice (log 2). -/
def Obligations.HostStoreIsReadBack : Prop :=
  (∀ (s : State) (a : Addr) (b : Byte),
    (a < 2 ^ s.par.widths.ptrW →
      ∃ t, runLine (.memw a b) s = .next t ∧ t = { s with mem := t.mem } ∧ t.readByte a = b ∧
        ∀ c, c ≠ a → t.readByte c = s.readByte c) ∧
    (2 ^ s.par.widths.ptrW ≤ a → runLine (.memw a b) s = .fault .noSuchAddress)) ∧
  (∀ (s : State) (d : Arg) (u : DisplayUpdate) (r : Display), d < 2 ^ s.par.widths.argW →
    ((∃ n, (u = .width n ∧ r = { s.display d with width := n }) ∨
        (u = .height n ∧ r = { s.display d with height := n }) ∨
        (u = .pageCount n ∧ r = { s.display d with pageCount := n }) ∨
        (u = .cursor n ∧ r = { s.display d with cursor := n })) ∨
      (u = .advanceCursor ∧ r = { s.display d with cursor := (s.display d).cursor + 1 }) ∨
      (∃ a, u = .busAddr a ∧ r = { s.display d with busAddr := a }) ∨
      (∃ a, a < 2 ^ s.par.widths.ptrW ∧ u = .fb a ∧ r = { s.display d with fb := a }) ∨
      (∃ held, u = .lock held ∧ r = { s.display d with lock := held })) →
    ∃ t, runLine (.update d u) s = .next t ∧ t = { s with displays := t.displays } ∧ t.display d = r ∧
      ∀ e, e ≠ d → t.display e = s.display e) ∧
  ∀ (s : State) (d : Arg) (u : DisplayUpdate),
    (2 ^ s.par.widths.argW ≤ d ∨ ∃ a, 2 ^ s.par.widths.ptrW ≤ a ∧ u = .fb a) →
    runLine (.update d u) s = .refused .wideAssignment

/-! ### Reset and invariants -/

/-- Rules R32, R230: after reset `state` is Idle, no event is pending, the context is Main, the traces
are empty and no command is outstanding. -/
def Obligations.ResetIsIdleAndQuiet : Prop :=
  State.reset.state = .idle ∧ State.reset.evPending = false ∧ State.reset.ctx = .main ∧
    State.reset.wireTrace = [] ∧ State.reset.complTrace = [] ∧ State.reset.cmdq = []

/-- Every invariant below holds at reset; that the counts are 0 there is the model's choice (log 3). -/
def Obligations.ResetMeetsTheInvariants : Prop :=
  Canonical State.reset ∧ BusContract State.reset ∧ CountsFit State.reset ∧ RecordsFit State.reset ∧
    WiresInOrder State.reset ∧ HostCode State.reset ∧ OneCompletionEach State.reset ∧ WindowOpen State.reset

/-- The canonical form of memory and of the display records is kept by every step. The form is the model's
own representation, and what an unlisted byte or record reads as is its choice (logs 4 and 5); the spec
says nothing of either. -/
def Obligations.StepKeepsTheCanonicalForm : Prop :=
  ∀ s t : State, Canonical s → step s = .next t → Canonical t

/-- Rules R25, R26, R56 to R59 and R214: at most one event-owing command or event exists, and only in
flight; every step keeps it. -/
def Obligations.StepKeepsTheBusContract : Prop :=
  ∀ s t : State, BusContract s → step s = .next t → BusContract t

/-- Rules R34, R48, R130: the relations between `state` and the counts, and the bounds of the cursors,
are kept by every step; so are, in whatever state, the widths rule R28 gives a display's reference and its
frame buffer reference. -/
def Obligations.StepKeepsTheCountRelations : Prop :=
  ∀ s t : State, step s = .next t → (CountsFit s → CountsFit t) ∧ (RecordsFit s → RecordsFit t)

/-- Rules R55, R59: what TXE commands reaches the wires in the order given; every step keeps it. -/
def Obligations.StepKeepsTheWiresInOrder : Prop :=
  ∀ s t : State, WiresInOrder s → step s = .next t → WiresInOrder t

/-- Rules R25, R154, R155: under the bus engine contract and host code that makes no completion
invocation of its own, every step keeps one start per stop (one more in flight) and one completion per
stop. -/
def Obligations.StepKeepsOneCompletionPerTransaction : Prop :=
  ∀ s t : State, BusContract s → HostCode s → OneCompletionEach s → step s = .next t →
    BusContract t ∧ HostCode t ∧ OneCompletionEach t

/-- Rules R61, R79, R127, R128 (T2): an accepted submission completes after exactly
`prefixLen + dataLen + 2` events, with the frame of its bytes on the wire and one completion, and not
before. For memory that is not written meanwhile, and a callback that is CB.NOP, CB.RELEASE or a routine of
the host's own table; the two callbacks that submit are those of
`Obligations.RefreshSendsEveryPageInOrder`. -/
def Obligations.TransactionCompletesAfterItsEvents : Prop :=
  ∀ (s u : State) (q : Submission), ContractMet s q → s.state = .idle → s.ctx = .main → s.evPending = false →
    s.cmdq = [] → s.todo = [] → (q.cb = 1 ∨ q.cb = 2 ∨ 5 ≤ q.cb) → exec (.submit q) s = .next u →
    (∃ t, events (q.pfxLen + q.dataLen + 2) u = .next t ∧ t.state = .idle ∧
      t.wireTrace = s.wireTrace ++ frame s.par s.mem q ∧
      t.complTrace = s.complTrace ++ [{ cb := q.cb, arg := q.arg }] ∧ t.evPending = false ∧ t.mem = s.mem ∧
      t.readTrace = s.readTrace
        ++ (List.range q.pfxLen).map (fun i => q.pfx + i)
        ++ (List.range q.dataLen).map (fun i => q.data + i)) ∧
    ∀ k, k < q.pfxLen + q.dataLen + 2 →
      ∃ t, events k u = .next t ∧ t.state ≠ .idle ∧ t.complTrace = s.complTrace

/-- Rule R87's EVENT against the machine's own steps: with one command outstanding that the bus engine
does not stall on, main-line without a line and context Main, one step of the bus engine and one of the
handler are one EVENT. -/
def Obligations.EventIsTwoSteps : Prop :=
  ∀ (s t : State) (c : Command), s.ctx = .main → s.main = [] → s.evPending = false → s.cmdq = [c] →
    c.stalls = false → Owing c.word → step s = .next t → event s = step t

/-- Rule R183 (T3): a refresh of an initialised display started in Idle puts, for every page in order,
the frame of its select-page command and the frame of its transfer on the wire, in
`page_count * (width + 11)` events; then the lock is free, and two completions per page have been made.
Memory is that at the start but for the patches the refresh makes itself. Of the cursor nothing is said
once the lock is free (U6). -/
def Obligations.RefreshSendsEveryPageInOrder : Prop :=
  ∀ (s u : State) (d : Arg), s.state = .idle → s.ctx = .main → s.evPending = false → s.cmdq = [] → s.todo = [] →
    s.par.widths.wf = true → d < 2 ^ s.par.widths.argW → (s.display d).width < 2 ^ s.par.widths.dlenW →
    1 ≤ (s.display d).pageCount → 1 ≤ (s.display d).width →
    RunMet s.par s.par.selBuf 6 → RunMet s.par s.par.dataPfx 1 →
    (∀ p, p < (s.display d).pageCount →
      RunMet s.par ((s.display d).fb + p * (s.display d).width) (s.display d).width) →
    exec (.refreshStart d) s = .next u →
    ∃ t, events ((s.display d).pageCount * ((s.display d).width + 11)) u = .next t ∧
      t.wireTrace = s.wireTrace ++ refreshFrames s.par s.mem d (s.display d) ∧
      t.complTrace = s.complTrace
        ++ (List.range (s.display d).pageCount).flatMap
          (fun _ => [{ cb := 3, arg := d }, { cb := 4, arg := d }]) ∧
      t.state = .idle ∧ t.ctx = .main ∧ t.evPending = false ∧
      t.display d = { s.display d with cursor := (t.display d).cursor, lock := false }
end

