-- ==== Sys2Proof/Laws/Cells.lean ====
section
/-!
SUPPORT. The laws of the canonical lists: a read after a write, and that a write keeps the form.
-/

namespace Sys2Proof.Machine

namespace Cells

variable {α : Type} (dflt : Nat → α)

theorem get_erase_same (m : List (Nat × α)) (k : Nat) : get dflt (erase m k) k = dflt k := by
  induction m with
  | nil => rfl
  | cons c m ih =>
    obtain ⟨k', v⟩ := c
    by_cases h : k' = k <;> simp [erase, get, h, ih]

theorem get_erase_other (m : List (Nat × α)) {k j : Nat} (hj : j ≠ k) :
    get dflt (erase m k) j = get dflt m j := by
  induction m with
  | nil => rfl
  | cons c m ih =>
    obtain ⟨k', v⟩ := c
    by_cases h : k' = k
    · subst h
      simp [erase, get, ih, Ne.symm hj]
    · by_cases h' : k' = j
      · subst h'
        simp [erase, get, h]
      · simp [erase, get, h, h', ih]

theorem get_insert_other (m : List (Nat × α)) {k j : Nat} (v : α) (hj : j ≠ k) :
    get dflt (insert m k v) j = get dflt m j := by
  induction m with
  | nil => simp [insert, get, Ne.symm hj]
  | cons c m ih =>
    obtain ⟨k', v'⟩ := c
    by_cases h : k < k'
    · simp [insert, get, h, Ne.symm hj]
    · by_cases h' : k' = j
      · subst h'
        simp [insert, get, h]
      · simp [insert, get, h, h', ih]

/-- Entries at `k` would hide an inserted one; after `erase` there is none. -/
theorem get_insert_erase_same (m : List (Nat × α)) (k : Nat) (v : α) :
    get dflt (insert (erase m k) k v) k = v := by
  induction m with
  | nil => simp [erase, insert, get]
  | cons c m ih =>
    obtain ⟨k', v'⟩ := c
    by_cases h : k' = k
    · simpa [erase, h] using ih
    · by_cases h' : k < k' <;> simp [erase, insert, get, h, h', ih]

theorem erase_erase (m : List (Nat × α)) (k : Nat) : erase (erase m k) k = erase m k := by
  induction m with
  | nil => rfl
  | cons c m ih =>
    obtain ⟨k', v⟩ := c
    by_cases h : k' = k <;> simp [erase, h, ih]

theorem erase_insert (m : List (Nat × α)) (k : Nat) (v : α) : erase (insert m k v) k = erase m k := by
  induction m with
  | nil => simp [insert, erase]
  | cons c m ih =>
    obtain ⟨k', v'⟩ := c
    by_cases h : k < k'
    · simp [insert, h, erase]
    · by_cases h' : k' = k <;> simp [insert, h, erase, h', ih]

variable [DecidableEq α]

omit [DecidableEq α] in
theorem mem_of_mem_erase {m : List (Nat × α)} {k : Nat} {c : Nat × α} (h : c ∈ erase m k) : c ∈ m := by
  induction m with
  | nil => exact h
  | cons x m ih =>
    obtain ⟨k', v⟩ := x
    unfold erase at h
    split at h
    · exact .tail _ (ih h)
    · rcases List.mem_cons.1 h with rfl | h
      · exact .head _
      · exact .tail _ (ih h)

omit [DecidableEq α] in
theorem mem_insert {m : List (Nat × α)} {k : Nat} {v : α} {c : Nat × α} (h : c ∈ insert m k v) :
    c = (k, v) ∨ c ∈ m := by
  induction m with
  | nil => exact List.mem_cons.1 h
  | cons x m ih =>
    obtain ⟨k', v'⟩ := x
    unfold insert at h
    split at h
    · exact List.mem_cons.1 h
    · rcases List.mem_cons.1 h with rfl | h
      · exact .inr (.head _)
      · exact (ih h).imp_right (.tail _)

/-- Every entry after a write is the written one or an old one. -/
theorem mem_put (m : List (Nat × α)) (k : Nat) (v : α) {c : Nat × α} (h : c ∈ put dflt m k v) :
    (c = (k, v) ∧ v ≠ dflt k) ∨ c ∈ m := by
  unfold put at h
  split at h
  · exact .inr (mem_of_mem_erase h)
  · next hv => exact (mem_insert h).imp (⟨·, hv⟩) mem_of_mem_erase

omit [DecidableEq α] in
/-- What a key reads as is the unlisted value or stands in the list. -/
theorem get_default_or_mem (m : List (Nat × α)) (k : Nat) : get dflt m k = dflt k ∨ (k, get dflt m k) ∈ m := by
  induction m with
  | nil => exact .inl rfl
  | cons x m ih =>
    obtain ⟨k', v⟩ := x
    by_cases h : k' = k
    · subst h
      simp [get]
    · simpa [get, h] using ih.imp_right (.inr)

/-- The second of two writes to one key stands alone. -/
theorem put_put (m : List (Nat × α)) (k : Nat) (v w : α) : put dflt (put dflt m k v) k w = put dflt m k w := by
  have : erase (put dflt m k v) k = erase m k := by
    unfold put
    split <;> simp [erase_erase, erase_insert]
  rw [put, this, put]

/-- A read of what was written. -/
theorem get_put_same (m : List (Nat × α)) (k : Nat) (v : α) : get dflt (put dflt m k v) k = v := by
  unfold put
  split
  · next h => rw [get_erase_same, h]
  · exact get_insert_erase_same dflt m k v

/-- A write leaves every other key alone. -/
theorem get_put_other (m : List (Nat × α)) {k j : Nat} (v : α) (hj : j ≠ k) :
    get dflt (put dflt m k v) j = get dflt m j := by
  unfold put
  split
  · exact get_erase_other dflt m hj
  · rw [get_insert_other dflt _ v hj, get_erase_other dflt m hj]

omit [DecidableEq α] in
theorem above_erase {k j : Nat} (m : List (Nat × α)) (h : above j m = true) : above j (erase m k) = true := by
  induction m with
  | nil => rfl
  | cons c m ih =>
    obtain ⟨k', v⟩ := c
    simp only [above, Bool.and_eq_true] at h
    by_cases h' : k' = k
    · simpa [erase, h'] using ih h.2
    · simp [erase, above, h', h.1, ih h.2]

omit [DecidableEq α] in
theorem above_insert {k j : Nat} (m : List (Nat × α)) (v : α) (hk : j < k) (h : above j m = true) :
    above j (insert m k v) = true := by
  induction m with
  | nil => simp [insert, above, hk]
  | cons c m ih =>
    obtain ⟨k', v'⟩ := c
    have hm := h
    simp only [above, Bool.and_eq_true] at h
    by_cases h' : k < k'
    · simp [insert, above, h', hk] at hm ⊢
      exact hm
    · simp [insert, above, h', h.1, ih h.2]

omit [DecidableEq α] in
/-- A bound may be lowered. -/
theorem above_of_le {j k : Nat} (m : List (Nat × α)) (hjk : j ≤ k) (h : above k m = true) : above j m = true := by
  induction m with
  | nil => rfl
  | cons c m ih =>
    obtain ⟨k', v⟩ := c
    simp only [above, Bool.and_eq_true, decide_eq_true_eq] at h ⊢
    exact ⟨by omega, ih h.2⟩

theorem wf_erase (m : List (Nat × α)) (k : Nat) (h : wf dflt m = true) : wf dflt (erase m k) = true := by
  induction m with
  | nil => rfl
  | cons c m ih =>
    obtain ⟨k', v⟩ := c
    simp only [wf, Bool.and_eq_true] at h
    by_cases h' : k' = k
    · simpa [erase, h'] using ih h.2
    · simp only [erase, h', if_false, wf, Bool.and_eq_true]
      exact ⟨⟨above_erase m h.1.1, h.1.2⟩, ih h.2⟩

theorem wf_insert_erase (m : List (Nat × α)) (k : Nat) (v : α) (hv : v ≠ dflt k) (h : wf dflt m = true) :
    wf dflt (insert (erase m k) k v) = true := by
  induction m with
  | nil => simp [erase, insert, wf, above, hv]
  | cons c m ih =>
    obtain ⟨k', v'⟩ := c
    have hm := h
    simp only [wf, Bool.and_eq_true] at h
    by_cases h' : k' = k
    · simpa [erase, h'] using ih h.2
    · by_cases h'' : k < k'
      · simp only [erase, h', if_false, insert, h'', if_true, wf, above, Bool.and_eq_true, decide_eq_true_eq]
        exact ⟨⟨⟨trivial, above_of_le _ (Nat.le_of_lt h'') (above_erase m h.1.1)⟩, hv⟩,
          ⟨above_erase m h.1.1, by simpa using h.1.2⟩, wf_erase dflt m k h.2⟩
      · simp only [erase, h', if_false, insert, h'', wf, Bool.and_eq_true]
        exact ⟨⟨above_insert _ v (by omega) (above_erase m h.1.1), h.1.2⟩, ih h.2⟩

/-- A write keeps the canonical form. -/
theorem wf_put (m : List (Nat × α)) (k : Nat) (v : α) (h : wf dflt m = true) : wf dflt (put dflt m k v) = true := by
  unfold put
  split
  · exact wf_erase dflt m k h
  · next hv => exact wf_insert_erase dflt m k v hv h

omit [DecidableEq α] in
/-- A bound on the keys that holds of the list and of the new key holds after the insertion. -/
theorem all_insert (p : Nat → Bool) (m : List (Nat × α)) (k : Nat) (v : α) (hk : p k = true)
    (h : m.all (fun c => p c.1) = true) : (insert m k v).all (fun c => p c.1) = true := by
  induction m with
  | nil => simp [insert, hk]
  | cons c m ih =>
    obtain ⟨k', v'⟩ := c
    simp only [List.all_cons, Bool.and_eq_true] at h
    by_cases h' : k < k'
    · simp only [insert, h', if_true, List.all_cons, Bool.and_eq_true]
      exact ⟨hk, h.1, h.2⟩
    · simp only [insert, h', if_false, List.all_cons, Bool.and_eq_true]
      exact ⟨h.1, ih h.2⟩

omit [DecidableEq α] in
theorem all_erase (p : Nat → Bool) (m : List (Nat × α)) (k : Nat)
    (h : m.all (fun c => p c.1) = true) : (erase m k).all (fun c => p c.1) = true := by
  induction m with
  | nil => rfl
  | cons c m ih =>
    obtain ⟨k', v'⟩ := c
    simp only [List.all_cons, Bool.and_eq_true] at h
    by_cases h' : k' = k
    · simpa [erase, h'] using ih h.2
    · simp only [erase, h', if_false, List.all_cons, Bool.and_eq_true]
      exact ⟨h.1, ih h.2⟩

theorem all_put (p : Nat → Bool) (m : List (Nat × α)) (k : Nat) (v : α) (hk : p k = true)
    (h : m.all (fun c => p c.1) = true) : (put dflt m k v).all (fun c => p c.1) = true := by
  unfold put
  split
  · exact all_erase p m k h
  · exact all_insert p _ k v hk (all_erase p m k h)

end Cells

/-- A read of the byte just written. -/
@[simp] theorem Memory.read_write_same (p : Params) (m : List Host.Cell) (a : Addr) (b : Byte) :
    Memory.read p (Memory.write p m a b) a = b :=
  Cells.get_put_same _ m a b

/-- A write leaves every other byte alone. -/
theorem Memory.read_write_other (p : Params) (m : List Host.Cell) {a c : Addr} (b : Byte) (h : c ≠ a) :
    Memory.read p (Memory.write p m a b) c = Memory.read p m c :=
  Cells.get_put_other _ m b h

/-- A write inside the address space keeps memory's canonical form. -/
theorem Memory.wf_write (p : Params) (m : List Host.Cell) (a : Addr) (b : Byte) (ha : a < 2 ^ p.widths.ptrW)
    (h : Memory.wf p m = true) : Memory.wf p (Memory.write p m a b) = true := by
  simp only [Memory.wf, Bool.and_eq_true] at h ⊢
  exact ⟨Cells.wf_put _ m _ b h.1, Cells.all_put _ (fun k => fits p.widths.ptrW k) m _ b (by simp [fits, ha]) h.2⟩

/-- A display's record as just written. -/
@[simp] theorem Displays.get_put_same (m : List (Nat × Display)) (d : Arg) (r : Display) :
    Displays.get (Displays.put m d r) d = r :=
  Cells.get_put_same _ m d r

/-- A write of one display's record leaves every other alone. -/
theorem Displays.get_put_other (m : List (Nat × Display)) {d e : Arg} (r : Display) (h : e ≠ d) :
    Displays.get (Displays.put m d r) e = Displays.get m e :=
  Cells.get_put_other _ m r h

/-- The second of two writes of one display's record stands alone. -/
@[simp] theorem Displays.put_put (m : List (Nat × Display)) (d : Arg) (r q : Display) :
    Displays.put (Displays.put m d r) d q = Displays.put m d q :=
  Cells.put_put _ m d r q

/-- A write keeps the records' canonical form. -/
theorem Displays.wf_put (m : List (Nat × Display)) (d : Arg) (r : Display) (h : Displays.wf m = true) :
    Displays.wf (Displays.put m d r) = true :=
  Cells.wf_put _ m _ r h

end Sys2Proof.Machine
end

