-- ==== Sys2Proof/Laws/State.lean ====
section
/-!
SUPPORT. One lemma per field of the state per named update: what the field is afterwards.
-/

namespace Sys2Proof.Machine

section setPhase
variable (s : State) (b : BusState)

@[simp] theorem State.setPhase_par : (s.setPhase b).par = s.par := rfl
@[simp] theorem State.setPhase_state : (s.setPhase b).state = b := rfl
@[simp] theorem State.setPhase_req : (s.setPhase b).req = s.req := rfl
@[simp] theorem State.setPhase_evPending : (s.setPhase b).evPending = s.evPending := rfl
@[simp] theorem State.setPhase_ctx : (s.setPhase b).ctx = s.ctx := rfl
@[simp] theorem State.setPhase_answer : (s.setPhase b).answer = s.answer := rfl
@[simp] theorem State.setPhase_displays : (s.setPhase b).displays = s.displays := rfl
@[simp] theorem State.setPhase_mem : (s.setPhase b).mem = s.mem := rfl
@[simp] theorem State.setPhase_main : (s.setPhase b).main = s.main := rfl
@[simp] theorem State.setPhase_todo : (s.setPhase b).todo = s.todo := rfl
@[simp] theorem State.setPhase_routines : (s.setPhase b).routines = s.routines := rfl
@[simp] theorem State.setPhase_cmdq : (s.setPhase b).cmdq = s.cmdq := rfl
@[simp] theorem State.setPhase_status : (s.setPhase b).status = s.status := rfl
@[simp] theorem State.setPhase_busFreq : (s.setPhase b).busFreq = s.busFreq := rfl
@[simp] theorem State.setPhase_wireTrace : (s.setPhase b).wireTrace = s.wireTrace := rfl
@[simp] theorem State.setPhase_complTrace : (s.setPhase b).complTrace = s.complTrace := rfl
@[simp] theorem State.setPhase_wires : (s.setPhase b).wires = s.wires := rfl
@[simp] theorem State.setPhase_readTrace : (s.setPhase b).readTrace = s.readTrace := rfl
@[simp] theorem State.setPhase_freeIx : (s.setPhase b).freeIx = s.freeIx := rfl

end setPhase

section answerWith
variable (s : State) (r : Result)

@[simp] theorem State.answerWith_par : (s.answerWith r).par = s.par := rfl
@[simp] theorem State.answerWith_state : (s.answerWith r).state = s.state := rfl
@[simp] theorem State.answerWith_req : (s.answerWith r).req = s.req := rfl
@[simp] theorem State.answerWith_evPending : (s.answerWith r).evPending = s.evPending := rfl
@[simp] theorem State.answerWith_ctx : (s.answerWith r).ctx = s.ctx := rfl
@[simp] theorem State.answerWith_answer : (s.answerWith r).answer = some r := rfl
@[simp] theorem State.answerWith_displays : (s.answerWith r).displays = s.displays := rfl
@[simp] theorem State.answerWith_mem : (s.answerWith r).mem = s.mem := rfl
@[simp] theorem State.answerWith_main : (s.answerWith r).main = s.main := rfl
@[simp] theorem State.answerWith_todo : (s.answerWith r).todo = s.todo := rfl
@[simp] theorem State.answerWith_routines : (s.answerWith r).routines = s.routines := rfl
@[simp] theorem State.answerWith_cmdq : (s.answerWith r).cmdq = s.cmdq := rfl
@[simp] theorem State.answerWith_status : (s.answerWith r).status = s.status := rfl
@[simp] theorem State.answerWith_busFreq : (s.answerWith r).busFreq = s.busFreq := rfl
@[simp] theorem State.answerWith_wireTrace : (s.answerWith r).wireTrace = s.wireTrace := rfl
@[simp] theorem State.answerWith_complTrace : (s.answerWith r).complTrace = s.complTrace := rfl
@[simp] theorem State.answerWith_wires : (s.answerWith r).wires = s.wires := rfl
@[simp] theorem State.answerWith_readTrace : (s.answerWith r).readTrace = s.readTrace := rfl
@[simp] theorem State.answerWith_freeIx : (s.answerWith r).freeIx = s.freeIx := rfl

end answerWith

section loadReq
variable (s : State) (q : Submission)

@[simp] theorem State.loadReq_par : (s.loadReq q).par = s.par := rfl
@[simp] theorem State.loadReq_state : (s.loadReq q).state = s.state := rfl
@[simp] theorem State.loadReq_req :
    (s.loadReq q).req =
      { address := q.address
        prefixPtr := q.pfx
        prefixRem := q.pfxLen
        dataPtr := q.data
        dataRem := q.dataLen
        cb := q.cb
        cbArg := q.arg
        fastFail := q.fastFail } := rfl
@[simp] theorem State.loadReq_evPending : (s.loadReq q).evPending = s.evPending := rfl
@[simp] theorem State.loadReq_ctx : (s.loadReq q).ctx = s.ctx := rfl
@[simp] theorem State.loadReq_answer : (s.loadReq q).answer = s.answer := rfl
@[simp] theorem State.loadReq_displays : (s.loadReq q).displays = s.displays := rfl
@[simp] theorem State.loadReq_mem : (s.loadReq q).mem = s.mem := rfl
@[simp] theorem State.loadReq_main : (s.loadReq q).main = s.main := rfl
@[simp] theorem State.loadReq_todo : (s.loadReq q).todo = s.todo := rfl
@[simp] theorem State.loadReq_routines : (s.loadReq q).routines = s.routines := rfl
@[simp] theorem State.loadReq_cmdq : (s.loadReq q).cmdq = s.cmdq := rfl
@[simp] theorem State.loadReq_status : (s.loadReq q).status = s.status := rfl
@[simp] theorem State.loadReq_busFreq : (s.loadReq q).busFreq = s.busFreq := rfl
@[simp] theorem State.loadReq_wireTrace : (s.loadReq q).wireTrace = s.wireTrace := rfl
@[simp] theorem State.loadReq_complTrace : (s.loadReq q).complTrace = s.complTrace := rfl
@[simp] theorem State.loadReq_wires : (s.loadReq q).wires = s.wires := rfl
@[simp] theorem State.loadReq_readTrace : (s.loadReq q).readTrace = s.readTrace := rfl
@[simp] theorem State.loadReq_freeIx : (s.loadReq q).freeIx = s.freeIx := rfl

end loadReq

section hand
variable (s : State) (w : BitVec 10) (y : Sym)

@[simp] theorem State.hand_par : (s.hand w y).par = s.par := rfl
@[simp] theorem State.hand_state : (s.hand w y).state = s.state := rfl
@[simp] theorem State.hand_req : (s.hand w y).req = s.req := rfl
@[simp] theorem State.hand_evPending : (s.hand w y).evPending = s.evPending := rfl
@[simp] theorem State.hand_ctx : (s.hand w y).ctx = s.ctx := rfl
@[simp] theorem State.hand_answer : (s.hand w y).answer = s.answer := rfl
@[simp] theorem State.hand_displays : (s.hand w y).displays = s.displays := rfl
@[simp] theorem State.hand_mem : (s.hand w y).mem = s.mem := rfl
@[simp] theorem State.hand_main : (s.hand w y).main = s.main := rfl
@[simp] theorem State.hand_todo : (s.hand w y).todo = s.todo := rfl
@[simp] theorem State.hand_routines : (s.hand w y).routines = s.routines := rfl
@[simp] theorem State.hand_cmdq :
    (s.hand w y).cmdq = s.cmdq ++ [{ word := w, stalls := Config.busStalls s.freeIx }] := rfl
@[simp] theorem State.hand_status : (s.hand w y).status = s.status := rfl
@[simp] theorem State.hand_busFreq : (s.hand w y).busFreq = s.busFreq := rfl
@[simp] theorem State.hand_wireTrace : (s.hand w y).wireTrace = s.wireTrace ++ [y] := rfl
@[simp] theorem State.hand_complTrace : (s.hand w y).complTrace = s.complTrace := rfl
@[simp] theorem State.hand_wires : (s.hand w y).wires = s.wires := rfl
@[simp] theorem State.hand_readTrace : (s.hand w y).readTrace = s.readTrace := rfl
@[simp] theorem State.hand_freeIx : (s.hand w y).freeIx = s.freeIx + 1 := rfl

end hand

section busStart
variable (s : State)

@[simp] theorem State.busStart_par : (s.busStart).par = s.par := rfl
@[simp] theorem State.busStart_state : (s.busStart).state = s.state := rfl
@[simp] theorem State.busStart_req : (s.busStart).req = s.req := rfl
@[simp] theorem State.busStart_evPending : (s.busStart).evPending = s.evPending := rfl
@[simp] theorem State.busStart_ctx : (s.busStart).ctx = s.ctx := rfl
@[simp] theorem State.busStart_answer : (s.busStart).answer = s.answer := rfl
@[simp] theorem State.busStart_displays : (s.busStart).displays = s.displays := rfl
@[simp] theorem State.busStart_mem : (s.busStart).mem = s.mem := rfl
@[simp] theorem State.busStart_main : (s.busStart).main = s.main := rfl
@[simp] theorem State.busStart_todo : (s.busStart).todo = s.todo := rfl
@[simp] theorem State.busStart_routines : (s.busStart).routines = s.routines := rfl
@[simp] theorem State.busStart_cmdq :
    (s.busStart).cmdq = s.cmdq ++ [{ word := startWord, stalls := Config.busStalls s.freeIx }] := rfl
@[simp] theorem State.busStart_status : (s.busStart).status = s.status := rfl
@[simp] theorem State.busStart_busFreq : (s.busStart).busFreq = s.busFreq := rfl
@[simp] theorem State.busStart_wireTrace : (s.busStart).wireTrace = s.wireTrace ++ [.start] := rfl
@[simp] theorem State.busStart_complTrace : (s.busStart).complTrace = s.complTrace := rfl
@[simp] theorem State.busStart_wires : (s.busStart).wires = s.wires := rfl
@[simp] theorem State.busStart_readTrace : (s.busStart).readTrace = s.readTrace := rfl
@[simp] theorem State.busStart_freeIx : (s.busStart).freeIx = s.freeIx + 1 := rfl

end busStart

section busWrite
variable (s : State) (b : Byte)

@[simp] theorem State.busWrite_par : (s.busWrite b).par = s.par := rfl
@[simp] theorem State.busWrite_state : (s.busWrite b).state = s.state := rfl
@[simp] theorem State.busWrite_req : (s.busWrite b).req = s.req := rfl
@[simp] theorem State.busWrite_evPending : (s.busWrite b).evPending = s.evPending := rfl
@[simp] theorem State.busWrite_ctx : (s.busWrite b).ctx = s.ctx := rfl
@[simp] theorem State.busWrite_answer : (s.busWrite b).answer = s.answer := rfl
@[simp] theorem State.busWrite_displays : (s.busWrite b).displays = s.displays := rfl
@[simp] theorem State.busWrite_mem : (s.busWrite b).mem = s.mem := rfl
@[simp] theorem State.busWrite_main : (s.busWrite b).main = s.main := rfl
@[simp] theorem State.busWrite_todo : (s.busWrite b).todo = s.todo := rfl
@[simp] theorem State.busWrite_routines : (s.busWrite b).routines = s.routines := rfl
@[simp] theorem State.busWrite_cmdq :
    (s.busWrite b).cmdq = s.cmdq ++ [{ word := writeWord b, stalls := Config.busStalls s.freeIx }] := rfl
@[simp] theorem State.busWrite_status : (s.busWrite b).status = s.status := rfl
@[simp] theorem State.busWrite_busFreq : (s.busWrite b).busFreq = s.busFreq := rfl
@[simp] theorem State.busWrite_wireTrace : (s.busWrite b).wireTrace = s.wireTrace ++ [.write b] := rfl
@[simp] theorem State.busWrite_complTrace : (s.busWrite b).complTrace = s.complTrace := rfl
@[simp] theorem State.busWrite_wires : (s.busWrite b).wires = s.wires := rfl
@[simp] theorem State.busWrite_readTrace : (s.busWrite b).readTrace = s.readTrace := rfl
@[simp] theorem State.busWrite_freeIx : (s.busWrite b).freeIx = s.freeIx + 1 := rfl

end busWrite

section busStop
variable (s : State)

@[simp] theorem State.busStop_par : (s.busStop).par = s.par := rfl
@[simp] theorem State.busStop_state : (s.busStop).state = s.state := rfl
@[simp] theorem State.busStop_req : (s.busStop).req = s.req := rfl
@[simp] theorem State.busStop_evPending : (s.busStop).evPending = s.evPending := rfl
@[simp] theorem State.busStop_ctx : (s.busStop).ctx = s.ctx := rfl
@[simp] theorem State.busStop_answer : (s.busStop).answer = s.answer := rfl
@[simp] theorem State.busStop_displays : (s.busStop).displays = s.displays := rfl
@[simp] theorem State.busStop_mem : (s.busStop).mem = s.mem := rfl
@[simp] theorem State.busStop_main : (s.busStop).main = s.main := rfl
@[simp] theorem State.busStop_todo : (s.busStop).todo = s.todo := rfl
@[simp] theorem State.busStop_routines : (s.busStop).routines = s.routines := rfl
@[simp] theorem State.busStop_cmdq :
    (s.busStop).cmdq = s.cmdq ++ [{ word := stopWord, stalls := Config.busStalls s.freeIx }] := rfl
@[simp] theorem State.busStop_status : (s.busStop).status = s.status := rfl
@[simp] theorem State.busStop_busFreq : (s.busStop).busFreq = s.busFreq := rfl
@[simp] theorem State.busStop_wireTrace : (s.busStop).wireTrace = s.wireTrace ++ [.stop] := rfl
@[simp] theorem State.busStop_complTrace : (s.busStop).complTrace = s.complTrace := rfl
@[simp] theorem State.busStop_wires : (s.busStop).wires = s.wires := rfl
@[simp] theorem State.busStop_readTrace : (s.busStop).readTrace = s.readTrace := rfl
@[simp] theorem State.busStop_freeIx : (s.busStop).freeIx = s.freeIx + 1 := rfl

end busStop

section performed
variable (s : State) (y : Sym)

@[simp] theorem State.performed_par : (s.performed y).par = s.par := rfl
@[simp] theorem State.performed_state : (s.performed y).state = s.state := rfl
@[simp] theorem State.performed_req : (s.performed y).req = s.req := rfl
@[simp] theorem State.performed_evPending : (s.performed y).evPending = s.evPending := rfl
@[simp] theorem State.performed_ctx : (s.performed y).ctx = s.ctx := rfl
@[simp] theorem State.performed_answer : (s.performed y).answer = s.answer := rfl
@[simp] theorem State.performed_displays : (s.performed y).displays = s.displays := rfl
@[simp] theorem State.performed_mem : (s.performed y).mem = s.mem := rfl
@[simp] theorem State.performed_main : (s.performed y).main = s.main := rfl
@[simp] theorem State.performed_todo : (s.performed y).todo = s.todo := rfl
@[simp] theorem State.performed_routines : (s.performed y).routines = s.routines := rfl
@[simp] theorem State.performed_cmdq : (s.performed y).cmdq = s.cmdq := rfl
@[simp] theorem State.performed_status : (s.performed y).status = Config.busStatus s.freeIx := rfl
@[simp] theorem State.performed_busFreq : (s.performed y).busFreq = s.busFreq := rfl
@[simp] theorem State.performed_wireTrace : (s.performed y).wireTrace = s.wireTrace := rfl
@[simp] theorem State.performed_complTrace : (s.performed y).complTrace = s.complTrace := rfl
@[simp] theorem State.performed_wires : (s.performed y).wires = s.wires ++ [y] := rfl
@[simp] theorem State.performed_readTrace : (s.performed y).readTrace = s.readTrace := rfl
@[simp] theorem State.performed_freeIx : (s.performed y).freeIx = s.freeIx + 1 := rfl

end performed

section raiseEvent
variable (s : State)

@[simp] theorem State.raiseEvent_par : (s.raiseEvent).par = s.par := rfl
@[simp] theorem State.raiseEvent_state : (s.raiseEvent).state = s.state := rfl
@[simp] theorem State.raiseEvent_req : (s.raiseEvent).req = s.req := rfl
@[simp] theorem State.raiseEvent_evPending : (s.raiseEvent).evPending = true := rfl
@[simp] theorem State.raiseEvent_ctx : (s.raiseEvent).ctx = s.ctx := rfl
@[simp] theorem State.raiseEvent_answer : (s.raiseEvent).answer = s.answer := rfl
@[simp] theorem State.raiseEvent_displays : (s.raiseEvent).displays = s.displays := rfl
@[simp] theorem State.raiseEvent_mem : (s.raiseEvent).mem = s.mem := rfl
@[simp] theorem State.raiseEvent_main : (s.raiseEvent).main = s.main := rfl
@[simp] theorem State.raiseEvent_todo : (s.raiseEvent).todo = s.todo := rfl
@[simp] theorem State.raiseEvent_routines : (s.raiseEvent).routines = s.routines := rfl
@[simp] theorem State.raiseEvent_cmdq : (s.raiseEvent).cmdq = s.cmdq := rfl
@[simp] theorem State.raiseEvent_status : (s.raiseEvent).status = s.status := rfl
@[simp] theorem State.raiseEvent_busFreq : (s.raiseEvent).busFreq = s.busFreq := rfl
@[simp] theorem State.raiseEvent_wireTrace : (s.raiseEvent).wireTrace = s.wireTrace := rfl
@[simp] theorem State.raiseEvent_complTrace : (s.raiseEvent).complTrace = s.complTrace := rfl
@[simp] theorem State.raiseEvent_wires : (s.raiseEvent).wires = s.wires := rfl
@[simp] theorem State.raiseEvent_readTrace : (s.raiseEvent).readTrace = s.readTrace := rfl
@[simp] theorem State.raiseEvent_freeIx : (s.raiseEvent).freeIx = s.freeIx := rfl

end raiseEvent

section noteRead
variable (s : State) (a : Addr)

@[simp] theorem State.noteRead_par : (s.noteRead a).par = s.par := rfl
@[simp] theorem State.noteRead_state : (s.noteRead a).state = s.state := rfl
@[simp] theorem State.noteRead_req : (s.noteRead a).req = s.req := rfl
@[simp] theorem State.noteRead_evPending : (s.noteRead a).evPending = s.evPending := rfl
@[simp] theorem State.noteRead_ctx : (s.noteRead a).ctx = s.ctx := rfl
@[simp] theorem State.noteRead_answer : (s.noteRead a).answer = s.answer := rfl
@[simp] theorem State.noteRead_displays : (s.noteRead a).displays = s.displays := rfl
@[simp] theorem State.noteRead_mem : (s.noteRead a).mem = s.mem := rfl
@[simp] theorem State.noteRead_main : (s.noteRead a).main = s.main := rfl
@[simp] theorem State.noteRead_todo : (s.noteRead a).todo = s.todo := rfl
@[simp] theorem State.noteRead_routines : (s.noteRead a).routines = s.routines := rfl
@[simp] theorem State.noteRead_cmdq : (s.noteRead a).cmdq = s.cmdq := rfl
@[simp] theorem State.noteRead_status : (s.noteRead a).status = s.status := rfl
@[simp] theorem State.noteRead_busFreq : (s.noteRead a).busFreq = s.busFreq := rfl
@[simp] theorem State.noteRead_wireTrace : (s.noteRead a).wireTrace = s.wireTrace := rfl
@[simp] theorem State.noteRead_complTrace : (s.noteRead a).complTrace = s.complTrace := rfl
@[simp] theorem State.noteRead_wires : (s.noteRead a).wires = s.wires := rfl
@[simp] theorem State.noteRead_readTrace : (s.noteRead a).readTrace = s.readTrace ++ [a] := rfl
@[simp] theorem State.noteRead_freeIx : (s.noteRead a).freeIx = s.freeIx := rfl

end noteRead

section writeByte
variable (s : State) (a : Addr) (b : Byte)

@[simp] theorem State.writeByte_par : (s.writeByte a b).par = s.par := rfl
@[simp] theorem State.writeByte_state : (s.writeByte a b).state = s.state := rfl
@[simp] theorem State.writeByte_req : (s.writeByte a b).req = s.req := rfl
@[simp] theorem State.writeByte_evPending : (s.writeByte a b).evPending = s.evPending := rfl
@[simp] theorem State.writeByte_ctx : (s.writeByte a b).ctx = s.ctx := rfl
@[simp] theorem State.writeByte_answer : (s.writeByte a b).answer = s.answer := rfl
@[simp] theorem State.writeByte_displays : (s.writeByte a b).displays = s.displays := rfl
@[simp] theorem State.writeByte_mem : (s.writeByte a b).mem = Memory.write s.par s.mem a b := rfl
@[simp] theorem State.writeByte_main : (s.writeByte a b).main = s.main := rfl
@[simp] theorem State.writeByte_todo : (s.writeByte a b).todo = s.todo := rfl
@[simp] theorem State.writeByte_routines : (s.writeByte a b).routines = s.routines := rfl
@[simp] theorem State.writeByte_cmdq : (s.writeByte a b).cmdq = s.cmdq := rfl
@[simp] theorem State.writeByte_status : (s.writeByte a b).status = s.status := rfl
@[simp] theorem State.writeByte_busFreq : (s.writeByte a b).busFreq = s.busFreq := rfl
@[simp] theorem State.writeByte_wireTrace : (s.writeByte a b).wireTrace = s.wireTrace := rfl
@[simp] theorem State.writeByte_complTrace : (s.writeByte a b).complTrace = s.complTrace := rfl
@[simp] theorem State.writeByte_wires : (s.writeByte a b).wires = s.wires := rfl
@[simp] theorem State.writeByte_readTrace : (s.writeByte a b).readTrace = s.readTrace := rfl
@[simp] theorem State.writeByte_freeIx : (s.writeByte a b).freeIx = s.freeIx := rfl

end writeByte

section setDisplay
variable (s : State) (d : Arg) (r : Display)

@[simp] theorem State.setDisplay_par : (s.setDisplay d r).par = s.par := rfl
@[simp] theorem State.setDisplay_state : (s.setDisplay d r).state = s.state := rfl
@[simp] theorem State.setDisplay_req : (s.setDisplay d r).req = s.req := rfl
@[simp] theorem State.setDisplay_evPending : (s.setDisplay d r).evPending = s.evPending := rfl
@[simp] theorem State.setDisplay_ctx : (s.setDisplay d r).ctx = s.ctx := rfl
@[simp] theorem State.setDisplay_answer : (s.setDisplay d r).answer = s.answer := rfl
@[simp] theorem State.setDisplay_displays : (s.setDisplay d r).displays = Displays.put s.displays d r := rfl
@[simp] theorem State.setDisplay_mem : (s.setDisplay d r).mem = s.mem := rfl
@[simp] theorem State.setDisplay_main : (s.setDisplay d r).main = s.main := rfl
@[simp] theorem State.setDisplay_todo : (s.setDisplay d r).todo = s.todo := rfl
@[simp] theorem State.setDisplay_routines : (s.setDisplay d r).routines = s.routines := rfl
@[simp] theorem State.setDisplay_cmdq : (s.setDisplay d r).cmdq = s.cmdq := rfl
@[simp] theorem State.setDisplay_status : (s.setDisplay d r).status = s.status := rfl
@[simp] theorem State.setDisplay_busFreq : (s.setDisplay d r).busFreq = s.busFreq := rfl
@[simp] theorem State.setDisplay_wireTrace : (s.setDisplay d r).wireTrace = s.wireTrace := rfl
@[simp] theorem State.setDisplay_complTrace : (s.setDisplay d r).complTrace = s.complTrace := rfl
@[simp] theorem State.setDisplay_wires : (s.setDisplay d r).wires = s.wires := rfl
@[simp] theorem State.setDisplay_readTrace : (s.setDisplay d r).readTrace = s.readTrace := rfl
@[simp] theorem State.setDisplay_freeIx : (s.setDisplay d r).freeIx = s.freeIx := rfl

end setDisplay

section update
variable (s : State) (d : Arg) (u : DisplayUpdate)

@[simp] theorem State.update_par : (s.update d u).par = s.par := rfl
@[simp] theorem State.update_state : (s.update d u).state = s.state := rfl
@[simp] theorem State.update_req : (s.update d u).req = s.req := rfl
@[simp] theorem State.update_evPending : (s.update d u).evPending = s.evPending := rfl
@[simp] theorem State.update_ctx : (s.update d u).ctx = s.ctx := rfl
@[simp] theorem State.update_answer : (s.update d u).answer = s.answer := rfl
@[simp] theorem State.update_displays :
    (s.update d u).displays = Displays.put s.displays d (u.apply (s.display d)) := rfl
@[simp] theorem State.update_mem : (s.update d u).mem = s.mem := rfl
@[simp] theorem State.update_main : (s.update d u).main = s.main := rfl
@[simp] theorem State.update_todo : (s.update d u).todo = s.todo := rfl
@[simp] theorem State.update_routines : (s.update d u).routines = s.routines := rfl
@[simp] theorem State.update_cmdq : (s.update d u).cmdq = s.cmdq := rfl
@[simp] theorem State.update_status : (s.update d u).status = s.status := rfl
@[simp] theorem State.update_busFreq : (s.update d u).busFreq = s.busFreq := rfl
@[simp] theorem State.update_wireTrace : (s.update d u).wireTrace = s.wireTrace := rfl
@[simp] theorem State.update_complTrace : (s.update d u).complTrace = s.complTrace := rfl
@[simp] theorem State.update_wires : (s.update d u).wires = s.wires := rfl
@[simp] theorem State.update_readTrace : (s.update d u).readTrace = s.readTrace := rfl
@[simp] theorem State.update_freeIx : (s.update d u).freeIx = s.freeIx := rfl

end update

section setBusFreq
variable (s : State) (f : Nat)

@[simp] theorem State.setBusFreq_par : (s.setBusFreq f).par = s.par := rfl
@[simp] theorem State.setBusFreq_state : (s.setBusFreq f).state = s.state := rfl
@[simp] theorem State.setBusFreq_req : (s.setBusFreq f).req = s.req := rfl
@[simp] theorem State.setBusFreq_evPending : (s.setBusFreq f).evPending = s.evPending := rfl
@[simp] theorem State.setBusFreq_ctx : (s.setBusFreq f).ctx = s.ctx := rfl
@[simp] theorem State.setBusFreq_answer : (s.setBusFreq f).answer = s.answer := rfl
@[simp] theorem State.setBusFreq_displays : (s.setBusFreq f).displays = s.displays := rfl
@[simp] theorem State.setBusFreq_mem : (s.setBusFreq f).mem = s.mem := rfl
@[simp] theorem State.setBusFreq_main : (s.setBusFreq f).main = s.main := rfl
@[simp] theorem State.setBusFreq_todo : (s.setBusFreq f).todo = s.todo := rfl
@[simp] theorem State.setBusFreq_routines : (s.setBusFreq f).routines = s.routines := rfl
@[simp] theorem State.setBusFreq_cmdq : (s.setBusFreq f).cmdq = s.cmdq := rfl
@[simp] theorem State.setBusFreq_status : (s.setBusFreq f).status = s.status := rfl
@[simp] theorem State.setBusFreq_busFreq : (s.setBusFreq f).busFreq = f := rfl
@[simp] theorem State.setBusFreq_wireTrace : (s.setBusFreq f).wireTrace = s.wireTrace := rfl
@[simp] theorem State.setBusFreq_complTrace : (s.setBusFreq f).complTrace = s.complTrace := rfl
@[simp] theorem State.setBusFreq_wires : (s.setBusFreq f).wires = s.wires := rfl
@[simp] theorem State.setBusFreq_readTrace : (s.setBusFreq f).readTrace = s.readTrace := rfl
@[simp] theorem State.setBusFreq_freeIx : (s.setBusFreq f).freeIx = s.freeIx := rfl

end setBusFreq

section bump
variable (s : State)

@[simp] theorem State.bump_par : (s.bump).par = s.par := rfl
@[simp] theorem State.bump_state : (s.bump).state = s.state := rfl
@[simp] theorem State.bump_req : (s.bump).req = s.req := rfl
@[simp] theorem State.bump_evPending : (s.bump).evPending = s.evPending := rfl
@[simp] theorem State.bump_ctx : (s.bump).ctx = s.ctx := rfl
@[simp] theorem State.bump_answer : (s.bump).answer = s.answer := rfl
@[simp] theorem State.bump_displays : (s.bump).displays = s.displays := rfl
@[simp] theorem State.bump_mem : (s.bump).mem = s.mem := rfl
@[simp] theorem State.bump_main : (s.bump).main = s.main := rfl
@[simp] theorem State.bump_todo : (s.bump).todo = s.todo := rfl
@[simp] theorem State.bump_routines : (s.bump).routines = s.routines := rfl
@[simp] theorem State.bump_cmdq : (s.bump).cmdq = s.cmdq := rfl
@[simp] theorem State.bump_status : (s.bump).status = s.status := rfl
@[simp] theorem State.bump_busFreq : (s.bump).busFreq = s.busFreq := rfl
@[simp] theorem State.bump_wireTrace : (s.bump).wireTrace = s.wireTrace := rfl
@[simp] theorem State.bump_complTrace : (s.bump).complTrace = s.complTrace := rfl
@[simp] theorem State.bump_wires : (s.bump).wires = s.wires := rfl
@[simp] theorem State.bump_readTrace : (s.bump).readTrace = s.readTrace := rfl
@[simp] theorem State.bump_freeIx : (s.bump).freeIx = s.freeIx + 1 := rfl

end bump

section takeEvent
variable (s : State)

@[simp] theorem takeEvent_par : (takeEvent s).par = s.par := rfl
@[simp] theorem takeEvent_state : (takeEvent s).state = s.state := rfl
@[simp] theorem takeEvent_req : (takeEvent s).req = s.req := rfl
@[simp] theorem takeEvent_evPending : (takeEvent s).evPending = false := rfl
@[simp] theorem takeEvent_ctx : (takeEvent s).ctx = .handler := rfl
@[simp] theorem takeEvent_answer : (takeEvent s).answer = s.answer := rfl
@[simp] theorem takeEvent_displays : (takeEvent s).displays = s.displays := rfl
@[simp] theorem takeEvent_mem : (takeEvent s).mem = s.mem := rfl
@[simp] theorem takeEvent_main : (takeEvent s).main = s.main := rfl
@[simp] theorem takeEvent_todo : (takeEvent s).todo = s.todo := rfl
@[simp] theorem takeEvent_routines : (takeEvent s).routines = s.routines := rfl
@[simp] theorem takeEvent_cmdq : (takeEvent s).cmdq = s.cmdq := rfl
@[simp] theorem takeEvent_status : (takeEvent s).status = s.status := rfl
@[simp] theorem takeEvent_busFreq : (takeEvent s).busFreq = s.busFreq := rfl
@[simp] theorem takeEvent_wireTrace : (takeEvent s).wireTrace = s.wireTrace := rfl
@[simp] theorem takeEvent_complTrace : (takeEvent s).complTrace = s.complTrace := rfl
@[simp] theorem takeEvent_wires : (takeEvent s).wires = s.wires := rfl
@[simp] theorem takeEvent_readTrace : (takeEvent s).readTrace = s.readTrace := rfl
@[simp] theorem takeEvent_freeIx : (takeEvent s).freeIx = s.freeIx := rfl

end takeEvent

section handlerReturn
variable (s : State)

@[simp] theorem handlerReturn_par : (handlerReturn s).par = s.par := rfl
@[simp] theorem handlerReturn_state : (handlerReturn s).state = s.state := rfl
@[simp] theorem handlerReturn_req : (handlerReturn s).req = s.req := rfl
@[simp] theorem handlerReturn_evPending : (handlerReturn s).evPending = s.evPending := rfl
@[simp] theorem handlerReturn_ctx : (handlerReturn s).ctx = .main := rfl
@[simp] theorem handlerReturn_answer : (handlerReturn s).answer = s.answer := rfl
@[simp] theorem handlerReturn_displays : (handlerReturn s).displays = s.displays := rfl
@[simp] theorem handlerReturn_mem : (handlerReturn s).mem = s.mem := rfl
@[simp] theorem handlerReturn_main : (handlerReturn s).main = s.main := rfl
@[simp] theorem handlerReturn_todo : (handlerReturn s).todo = s.todo := rfl
@[simp] theorem handlerReturn_routines : (handlerReturn s).routines = s.routines := rfl
@[simp] theorem handlerReturn_cmdq : (handlerReturn s).cmdq = s.cmdq := rfl
@[simp] theorem handlerReturn_status : (handlerReturn s).status = s.status := rfl
@[simp] theorem handlerReturn_busFreq : (handlerReturn s).busFreq = s.busFreq := rfl
@[simp] theorem handlerReturn_wireTrace : (handlerReturn s).wireTrace = s.wireTrace := rfl
@[simp] theorem handlerReturn_complTrace : (handlerReturn s).complTrace = s.complTrace := rfl
@[simp] theorem handlerReturn_wires : (handlerReturn s).wires = s.wires := rfl
@[simp] theorem handlerReturn_readTrace : (handlerReturn s).readTrace = s.readTrace := rfl
@[simp] theorem handlerReturn_freeIx : (handlerReturn s).freeIx = s.freeIx := rfl

end handlerReturn

section again
variable (s : State) (i : Instr)

@[simp] theorem State.again_par : (s.again i).par = s.par := by unfold State.again; split <;> rfl
@[simp] theorem State.again_state : (s.again i).state = s.state := by unfold State.again; split <;> rfl
@[simp] theorem State.again_req : (s.again i).req = s.req := by unfold State.again; split <;> rfl
@[simp] theorem State.again_evPending : (s.again i).evPending = s.evPending := by unfold State.again; split <;> rfl
@[simp] theorem State.again_ctx : (s.again i).ctx = s.ctx := by unfold State.again; split <;> rfl
@[simp] theorem State.again_answer : (s.again i).answer = s.answer := by unfold State.again; split <;> rfl
@[simp] theorem State.again_displays : (s.again i).displays = s.displays := by unfold State.again; split <;> rfl
@[simp] theorem State.again_mem : (s.again i).mem = s.mem := by unfold State.again; split <;> rfl
@[simp] theorem State.again_routines : (s.again i).routines = s.routines := by unfold State.again; split <;> rfl
@[simp] theorem State.again_cmdq : (s.again i).cmdq = s.cmdq := by unfold State.again; split <;> rfl
@[simp] theorem State.again_status : (s.again i).status = s.status := by unfold State.again; split <;> rfl
@[simp] theorem State.again_busFreq : (s.again i).busFreq = s.busFreq := by unfold State.again; split <;> rfl
@[simp] theorem State.again_wireTrace : (s.again i).wireTrace = s.wireTrace := by unfold State.again; split <;> rfl
@[simp] theorem State.again_complTrace :
    (s.again i).complTrace = s.complTrace := by unfold State.again; split <;> rfl
@[simp] theorem State.again_wires : (s.again i).wires = s.wires := by unfold State.again; split <;> rfl
@[simp] theorem State.again_readTrace : (s.again i).readTrace = s.readTrace := by unfold State.again; split <;> rfl
@[simp] theorem State.again_freeIx : (s.again i).freeIx = s.freeIx := by unfold State.again; split <;> rfl

theorem State.again_main_of_main (h : s.ctx = .main) :
    s.again i = { s with main := .line (encode s.par.widths i) :: s.main } := by
  simp only [State.again, h]

theorem State.again_todo_of_handler (h : s.ctx = .handler) :
    s.again i = { s with todo := .line (encode s.par.widths i) :: s.todo } := by
  simp only [State.again, h]

end again

section closeWindow
variable (s : State)

@[simp] theorem closeWindow_par : (closeWindow s).par = s.par := by unfold closeWindow; split <;> rfl
@[simp] theorem closeWindow_state : (closeWindow s).state = s.state := by unfold closeWindow; split <;> rfl
@[simp] theorem closeWindow_req : (closeWindow s).req = s.req := by unfold closeWindow; split <;> rfl
@[simp] theorem closeWindow_evPending :
    (closeWindow s).evPending = s.evPending := by unfold closeWindow; split <;> rfl
@[simp] theorem closeWindow_answer : (closeWindow s).answer = s.answer := by unfold closeWindow; split <;> rfl
@[simp] theorem closeWindow_displays :
    (closeWindow s).displays = s.displays := by unfold closeWindow; split <;> rfl
@[simp] theorem closeWindow_mem : (closeWindow s).mem = s.mem := by unfold closeWindow; split <;> rfl
@[simp] theorem closeWindow_main : (closeWindow s).main = s.main := by unfold closeWindow; split <;> rfl
@[simp] theorem closeWindow_todo : (closeWindow s).todo = s.todo := by unfold closeWindow; split <;> rfl
@[simp] theorem closeWindow_routines :
    (closeWindow s).routines = s.routines := by unfold closeWindow; split <;> rfl
@[simp] theorem closeWindow_cmdq : (closeWindow s).cmdq = s.cmdq := by unfold closeWindow; split <;> rfl
@[simp] theorem closeWindow_status : (closeWindow s).status = s.status := by unfold closeWindow; split <;> rfl
@[simp] theorem closeWindow_busFreq : (closeWindow s).busFreq = s.busFreq := by unfold closeWindow; split <;> rfl
@[simp] theorem closeWindow_wireTrace :
    (closeWindow s).wireTrace = s.wireTrace := by unfold closeWindow; split <;> rfl
@[simp] theorem closeWindow_complTrace :
    (closeWindow s).complTrace = s.complTrace := by unfold closeWindow; split <;> rfl
@[simp] theorem closeWindow_wires : (closeWindow s).wires = s.wires := by unfold closeWindow; split <;> rfl
@[simp] theorem closeWindow_readTrace :
    (closeWindow s).readTrace = s.readTrace := by unfold closeWindow; split <;> rfl
@[simp] theorem closeWindow_freeIx : (closeWindow s).freeIx = s.freeIx := by unfold closeWindow; split <;> rfl

theorem closeWindow_of_empty (h : s.todo = []) : closeWindow s = handlerReturn s := by
  simp [closeWindow, h]

theorem closeWindow_of_lines {a : HostAct} {l : List HostAct} (h : s.todo = a :: l) : closeWindow s = s := by
  simp [closeWindow, h]

end closeWindow

section accept
variable (q : Submission) (s : State)

@[simp] theorem accept_par : (accept q s).par = s.par := rfl
@[simp] theorem accept_state : (accept q s).state = .slaveAddress := rfl
@[simp] theorem accept_req :
    (accept q s).req =
      { address := q.address
        prefixPtr := q.pfx
        prefixRem := q.pfxLen
        dataPtr := q.data
        dataRem := q.dataLen
        cb := q.cb
        cbArg := q.arg
        fastFail := q.fastFail } := rfl
@[simp] theorem accept_evPending : (accept q s).evPending = s.evPending := rfl
@[simp] theorem accept_ctx : (accept q s).ctx = s.ctx := rfl
@[simp] theorem accept_answer : (accept q s).answer = s.answer := rfl
@[simp] theorem accept_displays : (accept q s).displays = s.displays := rfl
@[simp] theorem accept_mem : (accept q s).mem = s.mem := rfl
@[simp] theorem accept_main : (accept q s).main = s.main := rfl
@[simp] theorem accept_todo : (accept q s).todo = s.todo := rfl
@[simp] theorem accept_routines : (accept q s).routines = s.routines := rfl
@[simp] theorem accept_cmdq :
    (accept q s).cmdq = s.cmdq ++ [{ word := startWord, stalls := Config.busStalls s.freeIx }] := rfl
@[simp] theorem accept_status : (accept q s).status = s.status := rfl
@[simp] theorem accept_busFreq : (accept q s).busFreq = s.busFreq := rfl
@[simp] theorem accept_wireTrace : (accept q s).wireTrace = s.wireTrace ++ [.start] := rfl
@[simp] theorem accept_complTrace : (accept q s).complTrace = s.complTrace := rfl
@[simp] theorem accept_wires : (accept q s).wires = s.wires := rfl
@[simp] theorem accept_readTrace : (accept q s).readTrace = s.readTrace := rfl
@[simp] theorem accept_freeIx : (accept q s).freeIx = s.freeIx + 1 := rfl

end accept

end Sys2Proof.Machine
end

