-- ==== Sys2Proof/Laws/Submit.lean ====
section
/-!
SUPPORT. What a submission can do, said once: the caller contract, and the two outcomes of SUBMIT.
-/

namespace Sys2Proof.Machine

/-- The request registers a submission loads (rule R103). -/
def reqOf (q : Submission) : Req :=
  { address := q.address, prefixPtr := q.pfx, prefixRem := q.pfxLen, dataPtr := q.data, dataRem := q.dataLen,
    cb := q.cb, cbArg := q.arg, fastFail := q.fastFail }

@[simp] theorem accept_req_eq (q : Submission) (s : State) : (accept q s).req = reqOf q := rfl

/-- A run without a flaw is absent as (null, 0), or present, readable and without a wrap. -/
theorem runFlaw_none_iff (p : Params) (ptr len : Nat) :
    runFlaw p ptr len = none ↔
      (ptr = 0 ∧ len = 0) ∨ (ptr ≠ 0 ∧ len ≠ 0 ∧ ptr + len ≤ 2 ^ p.widths.ptrW ∧ readable p ptr len = true) := by
  unfold runFlaw
  by_cases hl : len = 0 <;> by_cases hp : ptr = 0 <;> by_cases hw : 2 ^ p.widths.ptrW < ptr + len <;>
    (simp [hl, hp, hw]; try omega)

/-- A submission without a flaw is one that meets rule R105 and fits a SUB word. -/
theorem submitFlaw_none_iff (s : State) (q : Submission) :
    submitFlaw s q = none ↔
      runFlaw s.par q.pfx q.pfxLen = none ∧ runFlaw s.par q.data q.dataLen = none ∧
        q.fits s.par.widths = true ∧ q.cb ≠ 0 ∧ isRoutine s q.cb = true := by
  unfold submitFlaw
  cases hp : runFlaw s.par q.pfx q.pfxLen with
  | some f => simp
  | none =>
    cases hd : runFlaw s.par q.data q.dataLen with
    | some f => simp
    | none => by_cases hf : q.fits s.par.widths = true <;> by_cases hc : q.cb = 0 <;> simp [hf, hc]

/-- The contract looks at the parameters and the callback table alone. -/
theorem submitFlaw_congr {s t : State} (q : Submission) (hp : t.par = s.par) (hr : t.routines = s.routines) :
    submitFlaw t q = submitFlaw s q := by
  unfold submitFlaw isRoutine
  rw [hp, hr]

/-- Operands that fit, as bounds. -/
theorem Submission.fits_iff (W : Widths) (q : Submission) :
    q.fits W = true ↔
      q.pfxLen < 2 ^ W.plenW ∧ q.dataLen < 2 ^ W.dlenW ∧ q.cb < 2 ^ W.cbW ∧ q.arg < 2 ^ W.argW := by
  simp [Submission.fits, fits, and_assoc]

/-- The bounds rule R48 gives a run without a flaw. -/
theorem runFlaw_bound {p : Params} {ptr len : Nat} (h : runFlaw p ptr len = none) :
    ptr + len ≤ 2 ^ p.widths.ptrW ∧ ptr < 2 ^ p.widths.ptrW := by
  have hpos : 0 < 2 ^ p.widths.ptrW := Nat.two_pow_pos _
  obtain ⟨a, b⟩ | ⟨a, b, c, d⟩ := (runFlaw_none_iff p ptr len).1 h
  · omega
  · omega

theorem submitOr_of_flaw {s : State} {q : Submission} {f : SubmitFlaw} (ok busy : State → State)
    (h : submitFlaw s q = some f) : submitOr q ok busy s = .refused (.illFormedSubmission f) := by
  simp only [submitOr, h]

theorem submitOr_of_idle {s : State} {q : Submission} (ok busy : State → State) (h : submitFlaw s q = none)
    (hi : s.state = .idle) : submitOr q ok busy s = .next (ok (accept q s)) := by
  simp only [submitOr, h, hi, if_true]

theorem submitOr_of_busy {s : State} {q : Submission} (ok busy : State → State) (h : submitFlaw s q = none)
    (hi : s.state ≠ .idle) : submitOr q ok busy s = .next (busy s) := by
  simp only [submitOr, h, hi, if_false]

/-- Every next state of a submission comes from one of its two outcomes. -/
theorem submitOr_next {s t : State} {q : Submission} {ok busy : State → State}
    (h : submitOr q ok busy s = .next t) :
    submitFlaw s q = none ∧
      ((s.state = .idle ∧ t = ok (accept q s)) ∨ (s.state ≠ .idle ∧ t = busy s)) := by
  cases hf : submitFlaw s q with
  | some f =>
    rw [submitOr_of_flaw ok busy hf] at h
    cases h
  | none =>
    refine ⟨rfl, ?_⟩
    by_cases hi : s.state = .idle
    · rw [submitOr_of_idle ok busy hf hi] at h
      injection h with h
      exact .inl ⟨hi, h.symm⟩
    · rw [submitOr_of_busy ok busy hf hi] at h
      injection h with h
      exact .inr ⟨hi, h.symm⟩

end Sys2Proof.Machine
end

