-- ==== Sys2Proof/Laws/Contract.lean ====
section
/-!
SUPPORT. The model's checks against the words of the caller contract (rules R48, R105), and the small
equations between the operations and the names the statements use for them.
-/

namespace Sys2Proof.Machine

/-- The check against holes is readability of every byte of the run (rule R48). -/
theorem readable_iff (p : Params) (ptr len : Nat) (hlen : 1 ≤ len) :
    readable p ptr len = true ↔ ∀ a, ptr ≤ a → a < ptr + len → Readable p a := by
  simp only [readable, Readable, List.all_eq_true, Bool.or_eq_true, decide_eq_true_eq]
  constructor
  · intro h a ha hb x hx
    have := h x hx
    omega
  · intro h x hx
    by_contra hc
    exact h (max ptr x.1) (by omega) (by omega) x hx (by omega)

/-- A run without a flaw is one that meets rule R105. -/
theorem runFlaw_none_iff_runMet (p : Params) (ptr len : Nat) : runFlaw p ptr len = none ↔ RunMet p ptr len := by
  rw [runFlaw_none_iff, RunMet]
  by_cases hl : 1 ≤ len
  · rw [readable_iff p ptr len hl]
    constructor
    · rintro (h | ⟨a, b, c, d⟩)
      · exact .inl h
      · exact .inr ⟨a, hl, c, d⟩
    · rintro (h | ⟨a, b, c, d⟩)
      · exact .inl h
      · exact .inr ⟨a, by omega, c, d⟩
  · constructor <;>
    · rintro (h | ⟨a, b, c, d⟩)
      · exact .inl h
      · omega

/-- An identifier is looked up exactly where the callback table holds it. -/
theorem lookup_isSome_iff {β : Type} (l : List (CbId × β)) (c : CbId) :
    (l.lookup c).isSome = true ↔ ∃ b, (c, b) ∈ l := by
  induction l with
  | nil => simp
  | cons x l ih =>
    obtain ⟨k, v⟩ := x
    by_cases h : c = k
    · subst h
      simp [List.lookup]
    · have hk : (c == k) = false := by simpa using h
      simp [List.lookup, hk, ih, h]

/-- The repeated operation of a spin is the next line of its context. -/
theorem again_eq_nextLine (s : State) (i : Instr) : s.again i = nextLine s (.line (encode s.par.widths i)) := by
  cases hc : s.ctx <;> simp [State.again, nextLine, hc]

/-- The command WRITE as rule R76 writes it, `0x200 | b`. -/
theorem writeWord_eq (b : Byte) : writeWord b = (0x200#10 ||| b.setWidth 10) := by
  revert b
  decide

end Sys2Proof.Machine
end

