-- ==== Sys2Proof/Laws/Effects.lean ====
section
/-!
SUPPORT. What each agent's operations can do, said once: `HostEffect` for every operation of the host
and of its callbacks, and one lemma for each other shared operation. The invariants follow from these.
-/

namespace Sys2Proof.Machine

/-- The formats whose words may stand among main-line's lines. -/
def lineFormat (f : Format) : Prop :=
  f = .sub ∨ f = .host ∨ f = .pseudo

/-- The bus side of a host operation: nothing, or one accepted submission in Idle. -/
def BusEffect (s t : State) : Prop :=
  (t.state = s.state ∧ t.req = s.req ∧ t.cmdq = s.cmdq ∧ t.wireTrace = s.wireTrace) ∨
    (s.state = .idle ∧ t.state = .slaveAddress ∧ t.wireTrace = s.wireTrace ++ [.start] ∧
      (∃ c : Command, c.word = startWord ∧ t.cmdq = s.cmdq ++ [c]) ∧
      ∃ q, submitFlaw s q = none ∧ t.req = reqOf q)

/-- The work lists after a host operation: as they were, or with one operation to repeat in front of
the list of the context it ran in. -/
def LinesEffect (s t : State) : Prop :=
  (t.main = s.main ∧ t.todo = s.todo) ∨
    ∃ w : PortWord, lineFormat w.format ∧
      ((s.ctx = .main ∧ t.main = .line w :: s.main ∧ t.todo = s.todo) ∨
        (s.ctx = .handler ∧ t.main = s.main ∧ t.todo = .line w :: s.todo))

/-- Everything an operation of the host can do but invoke a completion. -/
structure HostEffect (s t : State) : Prop where
  par       : t.par = s.par
  routines  : t.routines = s.routines
  ev        : t.evPending = s.evPending
  ctx       : t.ctx = s.ctx
  status    : t.status = s.status
  wires     : t.wires = s.wires
  reads     : t.readTrace = s.readTrace
  compl     : t.complTrace = s.complTrace
  bus       : BusEffect s t
  lines     : LinesEffect s t
  canonical : Canonical s → Canonical t

theorem BusEffect.refl (s : State) : BusEffect s s :=
  .inl ⟨rfl, rfl, rfl, rfl⟩

theorem LinesEffect.refl (s : State) : LinesEffect s s :=
  .inl ⟨rfl, rfl⟩

theorem HostEffect.refl (s : State) : HostEffect s s :=
  ⟨rfl, rfl, rfl, rfl, rfl, rfl, rfl, rfl, .refl s, .refl s, id⟩

theorem HostEffect.answerWith {s t : State} (h : HostEffect s t) (r : Result) : HostEffect s (t.answerWith r) :=
  ⟨h.par, h.routines, h.ev, h.ctx, h.status, h.wires, h.reads, h.compl, h.bus, h.lines, h.canonical⟩

theorem HostEffect.setBusFreq {s t : State} (h : HostEffect s t) (f : Nat) : HostEffect s (t.setBusFreq f) :=
  ⟨h.par, h.routines, h.ev, h.ctx, h.status, h.wires, h.reads, h.compl, h.bus, h.lines, h.canonical⟩

theorem HostEffect.setDisplay (s : State) (d : Arg) (r : Display) : HostEffect s (s.setDisplay d r) :=
  ⟨rfl, rfl, rfl, rfl, rfl, rfl, rfl, rfl, .refl s, .refl s, fun h => ⟨h.1, Displays.wf_put _ d r h.2⟩⟩

/-- A store inside the address space. -/
theorem HostEffect.writeByte (s : State) {a : Addr} (ha : a < 2 ^ s.par.widths.ptrW) (b : Byte) :
    HostEffect s (s.writeByte a b) :=
  ⟨rfl, rfl, rfl, rfl, rfl, rfl, rfl, rfl, .refl s, .refl s, fun h => ⟨Memory.wf_write _ _ a b ha h.1, h.2⟩⟩

theorem addMod_lt (n x y : Nat) : addMod n x y < 2 ^ n :=
  Nat.mod_lt _ (Nat.two_pow_pos n)

/-- The decrement of a count (rules R125, R126, R130). -/
theorem subMod_one (n x : Nat) : subMod n x 1 = (x + (2 ^ n - 1)) % 2 ^ n := by
  unfold subMod
  rcases Nat.eq_zero_or_pos n with h | h
  · subst h
    omega
  · rw [Nat.mod_eq_of_lt (Nat.one_lt_two_pow (by omega))]

/-- A display's frame buffer reference fits in every state whose records do. -/
theorem RecordsFit.display {s : State} (h : RecordsFit s) (d : Arg) :
    s.display d = Display.reset ∨
      (d < 2 ^ s.par.widths.argW ∧ (s.display d).fb < 2 ^ s.par.widths.ptrW) :=
  (Cells.get_default_or_mem _ s.displays d).imp_right (h _)

/-- A record written keeps the bounds if it fits or is what an unlisted reference has. -/
theorem RecordsFit.setDisplay {s : State} (h : RecordsFit s) {d : Arg} {r : Display}
    (hr : r ≠ Display.reset → d < 2 ^ s.par.widths.argW ∧ r.fb < 2 ^ s.par.widths.ptrW) :
    RecordsFit (s.setDisplay d r) := by
  intro c hc
  rcases Cells.mem_put (fun _ => Display.reset) s.displays d r hc with ⟨rfl, hv⟩ | hm
  · exact hr hv
  · exact h c hm

/-- The word of an operation has the operation's format. -/
theorem encode_format (W : Widths) (i : Instr) : (encode W i).format = i.format := by
  cases i <;> rfl

theorem HostEffect.again (s : State) {i : Instr} (hi : lineFormat i.format) : HostEffect s (s.again i) := by
  refine ⟨?_, ?_, ?_, ?_, ?_, ?_, ?_, ?_, ?_, ?_, fun h => by simpa [Canonical] using h⟩
  any_goals simp
  · exact .inl (by simp)
  · refine .inr ⟨encode s.par.widths i, by rwa [encode_format], ?_⟩
    cases hc : s.ctx with
    | main => exact .inl ⟨rfl, by rw [State.again_main_of_main s i hc], by rw [State.again_main_of_main s i hc]⟩
    | handler => exact .inr ⟨rfl, by rw [State.again_todo_of_handler s i hc], by rw [State.again_todo_of_handler s i hc]⟩

theorem HostEffect.accept {s : State} {q : Submission} (hi : s.state = .idle) (hq : submitFlaw s q = none) :
    HostEffect s (accept q s) :=
  ⟨rfl, rfl, rfl, rfl, rfl, rfl, rfl, rfl,
    .inr ⟨hi, rfl, rfl, ⟨_, rfl, rfl⟩, q, hq, rfl⟩, .refl s, id⟩

/-- Two effects one after the other, the first without a submission and without a line to repeat. -/
theorem HostEffect.trans {s t u : State} (h : HostEffect s t) (hb : t.state = s.state ∧ t.req = s.req ∧
    t.cmdq = s.cmdq ∧ t.wireTrace = s.wireTrace) (hl : t.main = s.main ∧ t.todo = s.todo) (h' : HostEffect t u) :
    HostEffect s u := by
  obtain ⟨b1, b2, b3, b4⟩ := hb
  obtain ⟨l1, l2⟩ := hl
  refine ⟨h'.par.trans h.par, h'.routines.trans h.routines, h'.ev.trans h.ev, h'.ctx.trans h.ctx,
    h'.status.trans h.status, h'.wires.trans h.wires, h'.reads.trans h.reads, h'.compl.trans h.compl, ?_, ?_,
    h'.canonical ∘ h.canonical⟩
  · obtain ⟨c1, c2, c3, c4⟩ | ⟨c1, c2, c3, ⟨c, hc, c4⟩, q, hq, c5⟩ := h'.bus
    · exact .inl ⟨c1.trans b1, c2.trans b2, c3.trans b3, c4.trans b4⟩
    · exact .inr ⟨b1 ▸ c1, c2, b4 ▸ c3, ⟨c, hc, b3 ▸ c4⟩, q, submitFlaw_congr q h.par h.routines ▸ hq, c5⟩
  · obtain ⟨c1, c2⟩ | ⟨i, hi, ⟨c1, c2, c3⟩ | ⟨c1, c2, c3⟩⟩ := h'.lines
    · exact .inl ⟨c1.trans l1, c2.trans l2⟩
    · exact .inr ⟨i, hi, .inl ⟨h.ctx ▸ c1, l1 ▸ c2, c3.trans l2⟩⟩
    · exact .inr ⟨i, hi, .inr ⟨h.ctx ▸ c1, c2.trans l1, l2 ▸ c3⟩⟩

theorem submitOnce_effect {self : Instr} (hs : lineFormat self.format) {q : Submission} {s t : State}
    (h : submitOnce self q s = .next t) : HostEffect s t := by
  obtain ⟨hq, ⟨hi, rfl⟩ | ⟨-, rfl⟩⟩ := submitOr_next h
  · exact (HostEffect.accept hi hq).answerWith _
  · split
    · exact .again s hs
    · exact (HostEffect.refl s).answerWith _

theorem spin_effect {q : Submission} {s t : State} (h : spin q s = .next t) : HostEffect s t := by
  obtain ⟨hq, ⟨hi, rfl⟩ | ⟨-, rfl⟩⟩ := submitOr_next h
  · exact .accept hi hq
  · exact .again s (.inr (.inr rfl))

theorem lockRelease_effect (d : Arg) (s : State) : HostEffect s (lockRelease d s) :=
  .setDisplay s d _

theorem claim_effect (d : Arg) (s : State) : HostEffect s (claim d s) :=
  .setDisplay s d _

theorem setCursor_effect (d : Arg) (n : Nat) (s : State) : HostEffect s (setCursor d n s) :=
  .setDisplay s d _

theorem update_effect (d : Arg) (u : DisplayUpdate) (s : State) : HostEffect s (s.update d u) :=
  .setDisplay s d _

/-- An assignment after the record was written is one write of the changed record. -/
theorem setDisplay_update (s : State) (d : Arg) (r : Display) (u : DisplayUpdate) :
    (s.setDisplay d r).update d u = s.setDisplay d (u.apply r) := by
  simp [State.update, State.setDisplay, State.display]

theorem fillDisplay_effect (d : Arg) (width height : Nat) (fb : Addr) (freq : Nat) (busAddr : BitVec 8)
    (s : State) : HostEffect s (fillDisplay d width height fb freq busAddr s) :=
  (HostEffect.setDisplay s d _).setBusFreq freq

theorem patchSelect_effect (d : Arg) (s : State) : HostEffect s (patchSelect d s) :=
  .writeByte s (addMod_lt _ _ _) _

theorem patchBright_effect (level : Byte) (s : State) : HostEffect s (patchBright level s) :=
  .writeByte s (addMod_lt _ _ _) _

theorem initSubmit_effect {d : Arg} {busAddr : BitVec 8} {s t : State} (h : initSubmit d busAddr s = .next t) :
    HostEffect s t := by
  obtain ⟨hq, ⟨hi, rfl⟩ | ⟨-, rfl⟩⟩ := submitOr_next h
  · exact (HostEffect.accept hi hq).answerWith _
  · exact (HostEffect.refl s).answerWith _

theorem selectPage_effect {d : Arg} {s t : State} (h : selectPage d s = .next t) : HostEffect s t :=
  (patchSelect_effect d s).trans ⟨rfl, rfl, rfl, rfl⟩ ⟨rfl, rfl⟩ (spin_effect h)

theorem selectDone_effect {d : Arg} {s t : State} (h : selectDone d s = .next t) : HostEffect s t :=
  spin_effect h

/-- Every line of a client procedure has only the effects of a host operation. -/
theorem runPart_effect {p : Part} {s t : State} (h : runPart p s = .next t) : HostEffect s t := by
  cases p with
  | setFreq freq =>
    injection h with h
    exact h ▸ (HostEffect.refl s).setBusFreq freq
  | initSubmit d busAddr => exact initSubmit_effect h
  | patchSelect d =>
    injection h with h
    exact h ▸ patchSelect_effect d s
  | submitSelect d => exact spin_effect h
  | patchBright level =>
    injection h with h
    exact h ▸ patchBright_effect level s
  | submitBright d => exact spin_effect h

theorem xferDone_effect {d : Arg} {s t : State} (h : xferDone d s = .next t) : HostEffect s t := by
  refine (setCursor_effect d ((s.display d).cursor + 1) s).trans ⟨rfl, rfl, rfl, rfl⟩ ⟨rfl, rfl⟩ ?_
  unfold xferDone nextPage at h
  split at h
  · injection h with h
    subst h
    exact lockRelease_effect d _
  · exact selectPage_effect h

/-- Every operation of the formats SUB, HOST and PSEUDO has only the effects of a host operation. -/
theorem exec_line_effect {i : Instr} (hf : lineFormat i.format) {s t : State} (h : exec i s = .next t) :
    HostEffect s t := by
  cases i with
  | evIdle | evStop | evSlaveAddress | evWritePrefix | evWriteByte => simp [lineFormat, Instr.format] at hf
  | busNone | busStart | busWrite | busStop => simp [lineFormat, Instr.format] at hf
  | complete | cbNop | cbRelease | cbSelectDone | cbXferDone => simp [lineFormat, Instr.format] at hf
  | submit q => exact submitOnce_effect (.inl rfl) h
  | submitHost q => exact submitOnce_effect (.inr (.inl rfl)) h
  | lockAcquire d =>
    simp only [exec, execLockAcquire] at h
    split at h <;> injection h with h <;> subst h
    · exact .again s (.inr (.inl rfl))
    · exact claim_effect d s
  | lockTry d =>
    simp only [exec, execLockTry] at h
    split at h <;> injection h with h <;> subst h
    · exact (HostEffect.refl s).answerWith _
    · exact (claim_effect d s).answerWith _
  | lockRelease d =>
    injection h with h
    exact h ▸ lockRelease_effect d s
  | displayInit d width height fb freq busAddr =>
    simp only [exec, execDisplayInit] at h
    split at h
    · exact (fillDisplay_effect d width height fb freq busAddr s).trans ⟨rfl, rfl, rfl, rfl⟩ ⟨rfl, rfl⟩
        (initSubmit_effect h)
    · cases h
  | refreshStart d =>
    exact (setCursor_effect d 0 s).trans ⟨rfl, rfl, rfl, rfl⟩ ⟨rfl, rfl⟩ (selectPage_effect h)
  | brightnessSet d level =>
    simp only [exec, execBrightnessSet] at h
    split at h
    · injection h with h
      exact h ▸ .again s (.inr (.inl rfl))
    · exact (claim_effect d s).trans ⟨rfl, rfl, rfl, rfl⟩ ⟨rfl, rfl⟩
        ((patchBright_effect level _).trans ⟨rfl, rfl, rfl, rfl⟩ ⟨rfl, rfl⟩ (spin_effect h))
  | submitSpin q => exact spin_effect h
  | submitCmd address buf n cb arg => exact spin_effect h
  | submitPage address pfx buf n cb arg => exact spin_effect h

/-- The four client callbacks have only the effects of a host operation. -/
theorem exec_callback_effect {i : Instr} (hf : i.format = .cpl) (hc : ∀ cb arg, i ≠ .complete cb arg) {s t : State}
    (h : exec i s = .next t) : HostEffect s t := by
  cases i with
  | cbNop arg =>
    injection h with h
    exact h ▸ .refl s
  | cbRelease d =>
    injection h with h
    exact h ▸ lockRelease_effect d s
  | cbSelectDone d => exact selectDone_effect h
  | cbXferDone d => exact xferDone_effect h
  | complete cb arg => exact absurd rfl (hc cb arg)
  | _ => simp [Instr.format] at hf

/-- What the start of a routine can do: the body of a client callback, or the lines of a routine of
the host's own table put in front of the callback's work. -/
theorem callRoutine_next {cb : CbId} {arg : Arg} {s t : State} (h : callRoutine cb arg s = .next t) :
    cb ≠ 0 ∧
      (HostEffect s t ∨
        ∃ body, s.routines.lookup cb = some body ∧
          t = { s with todo := body.map (bindArg s.par.widths arg) ++ s.todo }) := by
  unfold callRoutine at h
  split at h
  · cases h
  · next h0 =>
    refine ⟨h0, ?_⟩
    split at h
    · injection h with h
      exact .inl (h ▸ .refl s)
    · split at h
      · injection h with h
        exact .inl (h ▸ lockRelease_effect arg s)
      · split at h
        · exact .inl (selectDone_effect h)
        · split at h
          · exact .inl (xferDone_effect h)
          · split at h
            · cases h
            · next body hb =>
              injection h with h
              exact .inr ⟨body, hb, h.symm⟩

/-- What the end of a transaction can do (rules R121, R122): stop, Idle, `C`, then the routine. -/
theorem finishTransaction_eq (s : State) :
    finishTransaction s =
      callRoutine s.req.cb s.req.cbArg
        { (s.busStop.setPhase .idle) with
          complTrace := s.complTrace ++ [{ cb := s.req.cb, arg := s.req.cbArg }]
          ctx := .handler } :=
  rfl

/-- The event step that `state` selects (rule R120). -/
def eventInstr : BusState → Instr
  | .idle => .evIdle
  | .stop => .evStop
  | .slaveAddress => .evSlaveAddress
  | .writePrefix => .evWritePrefix
  | .writeByte => .evWriteByte

theorem decode_stateCode (W : Widths) (b : BusState) : decode W (.st (stateCode b)) = .ok (eventInstr b) := by
  cases b <;> rfl

/-- The handler's move: the selected event step between the taking of the event and the return. -/
theorem runHandler_eq (s : State) :
    runHandler s = onNext closeWindow (exec (eventInstr s.state) (takeEvent s)) := by
  simp only [runHandler, decode_stateCode]

/-- A next state of `onNext` comes from a next state. -/
theorem onNext_next {f : State → State} {o : Res} {t : State} (h : onNext f o = .next t) :
    ∃ u, o = .next u ∧ t = f u := by
  cases o with
  | next u =>
    injection h with h
    exact ⟨u, rfl, h.symm⟩
  | fault r => cases h
  | refused r => cases h

/-- A next state of `andThen` comes from two. -/
theorem andThen_next {o : Res} {f : State → Res} {t : State} (h : andThen o f = .next t) :
    ∃ u, o = .next u ∧ f u = .next t := by
  cases o with
  | next u => exact ⟨u, rfl, h⟩
  | fault r => cases h
  | refused r => cases h

/-- What a line of host code that runs can be: a line without a word, which has the effects of a host
operation alone, or a decoded word of a format its context carries. -/
theorem runLine_next {a : HostAct} {s t : State} (h : runLine a s = .next t) :
    HostEffect s t ∨
      ∃ w i, a = .line w ∧ portCarries s.ctx w = true ∧ decode s.par.widths w = .ok i ∧ exec i s = .next t := by
  cases a with
  | memw c b =>
    simp only [runLine] at h
    split at h
    · next hc =>
      injection h with h
      exact .inl (h ▸ .writeByte s (by simpa [fits] using hc) b)
    · cases h
  | update d u =>
    simp only [runLine] at h
    split at h
    · injection h with h
      exact .inl (h ▸ update_effect d u s)
    · cases h
  | part p => exact .inl (runPart_effect h)
  | lineOnArg w => cases h
  | updateOnArg u => cases h
  | line w =>
    simp only [runLine] at h
    split at h
    · next hp =>
      split at h
      · next i hi => exact .inr ⟨w, i, rfl, hp, hi, h⟩
      · cases h
    · cases h

/-- Main-line's move: nothing, its next line, or, where it can be preempted, the lines of the procedure
that its next line calls put in that line's place. -/
theorem runMainline_next {s t : State} (h : runMainline s = .next t) :
    (s.main = [] ∧ t = s) ∨
      ∃ a rest, s.main = a :: rest ∧
        (runLine a { s with main := rest } = .next t ∨
          ∃ lines, preemptible s = true ∧ procedureLines s.par a = some lines ∧
            t = { s with main := lines ++ rest }) := by
  unfold runMainline at h
  split at h
  · next hm =>
    injection h with h
    exact .inl ⟨hm, h.symm⟩
  · next a rest hm =>
    refine .inr ⟨a, rest, hm, ?_⟩
    split at h
    · next lines hl =>
      injection h with h
      split at hl
      · next hp => exact .inr ⟨lines, hp, hl, h.symm⟩
      · cases hl
    · exact .inl h

/-- A step moves one ready agent, after one free value is read where there was a choice; with no
agent ready the state stands. -/
theorem step_cases (s : State) :
    (ready s = [] ∧ step s = .next s) ∨
      ∃ a ∈ ready s, step s = move a s ∨ step s = move a s.bump := by
  unfold step moveOne
  split
  · next h => exact .inl ⟨h, rfl⟩
  · next a h => exact .inr ⟨a, by simp [h], .inl rfl⟩
  · next a b l h =>
    refine .inr ⟨_, ?_, .inr rfl⟩
    rw [h]
    have hlt : Config.turn s.freeIx % (l.length + 2) < (a :: b :: l).length := Nat.mod_lt _ (by omega)
    rw [List.getD_eq_getElem _ _ hlt]
    exact List.getElem_mem hlt

end Sys2Proof.Machine
end

