-- ==== Sys2Proof/Laws/Encoding.lean ====
section
/-!
SUPPORT. Slices of concatenated fields, and the SUB and CPL words read back, at every width (rules R73, R77).
-/

namespace Sys2Proof

/-- The low field of a concatenation. -/
theorem slice_cat_low (n a : Nat) {b : Nat} (hb : b < 2 ^ n) : slice 0 n (cat n a b) = b := by
  simp only [slice, cat, Nat.pow_zero, Nat.div_one]
  rw [Nat.add_comm, Nat.add_mul_mod_self_right, Nat.mod_eq_of_lt hb]

/-- A concatenation without its low field. -/
theorem cat_div (n a : Nat) {b : Nat} (hb : b < 2 ^ n) : cat n a b / 2 ^ n = a := by
  simp only [cat]
  rw [Nat.add_comm, Nat.add_mul_div_right _ _ (Nat.two_pow_pos n), Nat.div_eq_of_lt hb, Nat.zero_add]

/-- A slice above the low `n` bits is a slice of the word without them. -/
theorem slice_add (n lo k w : Nat) : slice (n + lo) k w = slice lo k (w / 2 ^ n) := by
  simp only [slice, Nat.pow_add, Nat.div_div_eq_div_mul]

/-- A slice that lies above the low field of a concatenation. -/
theorem slice_cat_high (n lo k a : Nat) {b : Nat} (hb : b < 2 ^ n) : slice (n + lo) k (cat n a b) = slice lo k a := by
  rw [slice_add, cat_div n a hb]

/-- The slice that starts right above the low field. -/
theorem slice_cat_next (n k a : Nat) {b : Nat} (hb : b < 2 ^ n) : slice n k (cat n a b) = slice 0 k a :=
  slice_cat_high n 0 k a hb

/-- A word put together again from what lies above its low `n` bits and those. -/
theorem cat_slice (n w : Nat) : cat n (w / 2 ^ n) (slice 0 n w) = w := by
  simp only [cat, slice, Nat.pow_zero, Nat.div_one]
  rw [Nat.mul_comm]
  exact Nat.div_add_mod w (2 ^ n)

theorem slice_lt (lo k w : Nat) : slice lo k w < 2 ^ k :=
  Nat.mod_lt _ (Nat.two_pow_pos k)

/-- A slice of a word that has no bit above it. -/
theorem slice_top {k w : Nat} (h : w < 2 ^ k) : slice 0 k w = w := by
  simp [slice, Nat.mod_eq_of_lt h]

/-- A concatenation of fields that fit fits the sum of their widths. -/
theorem cat_lt {n m a b : Nat} (ha : a < 2 ^ m) (hb : b < 2 ^ n) : cat n a b < 2 ^ (n + m) := by
  have h : (a + 1) * 2 ^ n ≤ 2 ^ m * 2 ^ n := Nat.mul_le_mul_right _ ha
  rw [Nat.pow_add, Nat.mul_comm (2 ^ n)]
  simp only [cat]
  rw [Nat.add_mul, Nat.one_mul] at h
  omega

/-- The seven reserved bits of a low byte that holds one bit. -/
theorem slice_reserved (a : Nat) (b : Bool) : slice 1 7 (cat 8 a b.toNat) = 0 := by
  cases b <;> simp [slice, cat] <;> omega

/-- The flag bit of a low byte that holds one bit. -/
theorem slice_flag (a : Nat) (b : Bool) : slice 0 1 (cat 8 a b.toNat) = b.toNat := by
  cases b <;> simp [slice, cat] <;> omega

/-- Every field of the submission fits its place. -/
structure Submission.Bounds (W : Widths) (q : Submission) : Prop where
  pfx     : q.pfx < 2 ^ W.ptrW
  pfxLen  : q.pfxLen < 2 ^ W.plenW
  data    : q.data < 2 ^ W.ptrW
  dataLen : q.dataLen < 2 ^ W.dlenW
  cb      : q.cb < 2 ^ W.cbW
  arg     : q.arg < 2 ^ W.argW

theorem bool_lt (b : Bool) : b.toNat < 2 ^ 8 := by
  cases b <;> decide

/-- A SUB word has the length of its format. -/
theorem encodeSub_lt {W : Widths} {q : Submission} (h : q.Bounds W) : encodeSub W q < 2 ^ subLength W :=
  cat_lt (cat_lt (cat_lt (cat_lt (cat_lt (cat_lt (cat_lt q.address.isLt h.pfx) h.pfxLen) h.data) h.dataLen) h.cb) h.arg)
    (bool_lt q.fastFail)

/-- A SUB word read back (rule R73). -/
theorem decodeSub_encodeSub {W : Widths} {q : Submission} (h : q.Bounds W) : decodeSub W (encodeSub W q) = .ok q := by
  have hf := bool_lt q.fastFail
  have hflag : (q.fastFail.toNat == 1) = q.fastFail := by cases q.fastFail <;> rfl
  unfold decodeSub
  rw [if_pos (encodeSub_lt h)]
  unfold encodeSub
  rw [if_pos (slice_reserved _ _)]
  simp only [slice_cat_high _ _ _ _ hf, slice_cat_high _ _ _ _ h.arg, slice_cat_high _ _ _ _ h.cb,
    slice_cat_high _ _ _ _ h.dataLen, slice_cat_high _ _ _ _ h.data, slice_cat_high _ _ _ _ h.pfxLen,
    slice_cat_next _ _ _ hf, slice_cat_next _ _ _ h.arg, slice_cat_next _ _ _ h.cb, slice_cat_next _ _ _ h.dataLen,
    slice_cat_next _ _ _ h.data, slice_cat_next _ _ _ h.pfxLen, slice_cat_next _ _ _ h.pfx,
    slice_cat_low _ _ h.arg, slice_cat_low _ _ h.cb, slice_cat_low _ _ h.dataLen, slice_cat_low _ _ h.data,
    slice_cat_low _ _ h.pfxLen, slice_cat_low _ _ h.pfx, slice_flag, slice_top q.address.isLt, BitVec.ofNat_toNat,
    BitVec.setWidth_eq, hflag]

/-- A CPL word read back (rule R77). -/
theorem decodeCpl_cplWord {W : Widths} {cb : CbId} {arg : Arg} (hcb : cb < 2 ^ W.cbW) (harg : arg < 2 ^ W.argW) :
    decodeCpl W (cplWord W cb arg) = .ok (completionOf cb arg) := by
  unfold decodeCpl cplWord
  rw [if_pos (cat_lt hcb harg), slice_cat_next _ _ _ harg, slice_cat_low _ _ harg, slice_top hcb]

/-- A word that spells a submission is that submission's word. -/
theorem encodeSub_decodeSub {W : Widths} {w : Nat} {q : Submission} (h : decodeSub W w = .ok q) : encodeSub W q = w := by
  unfold decodeSub at h
  split at h
  · next hw =>
    split at h
    · next hr =>
      injection h with h
      subst h
      have hlow : (slice 0 1 w == 1).toNat = slice 0 8 w := by
        simp only [slice, Nat.pow_zero, Nat.div_one, Nat.pow_one] at hr ⊢
        have : w % 2 = 0 ∨ w % 2 = 1 := by omega
        obtain h | h := this <;> simp [h] <;> omega
      have htop : (BitVec.ofNat 8 (slice (8 + (W.argW + (W.cbW + (W.dlenW + (W.ptrW + (W.plenW + W.ptrW)))))) 8 w)).toNat
          = w / 2 ^ 8 / 2 ^ W.argW / 2 ^ W.cbW / 2 ^ W.dlenW / 2 ^ W.ptrW / 2 ^ W.plenW / 2 ^ W.ptrW := by
        rw [BitVec.toNat_ofNat, Nat.mod_eq_of_lt (slice_lt _ _ _)]
        simp only [slice, Nat.div_div_eq_div_mul, ← Nat.pow_add]
        rw [Nat.mod_eq_of_lt, Nat.add_assoc, Nat.add_assoc, Nat.add_assoc, Nat.add_assoc, Nat.add_assoc]
        · exact (Nat.div_lt_iff_lt_mul (Nat.two_pow_pos _)).2 (by
            rw [← Nat.pow_add]
            simpa only [subLength, Nat.add_assoc, Nat.add_comm, Nat.add_left_comm] using hw)
      unfold encodeSub
      rw [hlow, htop]
      simp only [slice_add]
      have hz : ∀ n k v, slice n k v = slice 0 k (v / 2 ^ n) := fun n k v => by simp [slice]
      rw [hz 8, hz W.argW W.cbW, hz W.cbW W.dlenW, hz W.dlenW W.ptrW, hz W.ptrW W.plenW, hz W.plenW W.ptrW]
      simp only [cat_slice]
    · cases h
  · cases h

end Sys2Proof
end

