-- ==== Sys2Proof/Laws/PerInstr.lean ====
section
/-!
SUPPORT. Statements made per instruction: the word of every operation is a word of the format that the
opcode table gives its row (rule R70).
-/

namespace Sys2Proof.Laws.EncodesInItsFormat

/-- At every width the operation's word has the operation's format. -/
def Statement (i : Instr) : Prop :=
  ∀ W : Widths, (encode W i).format = i.format

theorem evIdle : Statement (.evIdle) := fun _ => rfl
theorem evStop : Statement (.evStop) := fun _ => rfl
theorem evSlaveAddress : Statement (.evSlaveAddress) := fun _ => rfl
theorem evWritePrefix : Statement (.evWritePrefix) := fun _ => rfl
theorem evWriteByte : Statement (.evWriteByte) := fun _ => rfl
theorem submit (q : Submission) : Statement (.submit q) := fun _ => rfl
theorem busNone : Statement (.busNone) := fun _ => rfl
theorem busStart : Statement (.busStart) := fun _ => rfl
theorem busWrite (b : Byte) : Statement (.busWrite b) := fun _ => rfl
theorem busStop : Statement (.busStop) := fun _ => rfl
theorem complete (cb : CbId) (arg : Arg) : Statement (.complete cb arg) := fun _ => rfl
theorem cbNop (arg : Arg) : Statement (.cbNop arg) := fun _ => rfl
theorem cbRelease (d : Arg) : Statement (.cbRelease d) := fun _ => rfl
theorem cbSelectDone (d : Arg) : Statement (.cbSelectDone d) := fun _ => rfl
theorem cbXferDone (d : Arg) : Statement (.cbXferDone d) := fun _ => rfl
theorem submitHost (q : Submission) : Statement (.submitHost q) := fun _ => rfl
theorem lockAcquire (d : Arg) : Statement (.lockAcquire d) := fun _ => rfl
theorem lockTry (d : Arg) : Statement (.lockTry d) := fun _ => rfl
theorem lockRelease (d : Arg) : Statement (.lockRelease d) := fun _ => rfl
theorem displayInit (d : Arg) (width height : Nat) (fb : Addr) (freq : Nat) (busAddr : BitVec 8) :
    Statement (.displayInit d width height fb freq busAddr) := fun _ => rfl
theorem refreshStart (d : Arg) : Statement (.refreshStart d) := fun _ => rfl
theorem brightnessSet (d : Arg) (level : Byte) : Statement (.brightnessSet d level) := fun _ => rfl
theorem submitSpin (q : Submission) : Statement (.submitSpin q) := fun _ => rfl
theorem submitCmd (address : BitVec 8) (buf : Addr) (n : PLen) (cb : CbId) (arg : Arg) :
    Statement (.submitCmd address buf n cb arg) := fun _ => rfl
theorem submitPage (address : BitVec 8) (pfx : Addr) (buf : Addr) (n : DLen) (cb : CbId) (arg : Arg) :
    Statement (.submitPage address pfx buf n cb arg) := fun _ => rfl

end Sys2Proof.Laws.EncodesInItsFormat
end

