-- ==== Sys2Proof/Tests/Slice0.lean ====
section
/-!
SUPPORT. The model's own tests: ill-formed terms the checks refuse, words written out from the
encodings of spec/30_encoding.md, one-step vectors of spec/95_test_vectors.md, and for every statement
with hypotheses a state and operands that meet them.
-/

namespace Sys2Proof.Tests

open Sys2Proof Sys2Proof.Machine

/-! ### Helpers -/

/-- Whether an outcome is a next state with a property. -/
def gives (o : Res) (p : State → Bool) : Bool :=
  match o with
  | .next t => p t
  | _ => false

/-- Whether an outcome is this refusal. -/
def refuses (o : Res) (r : Refusal) : Bool :=
  match o with
  | .refused r' => decide (r' = r)
  | _ => false

/-- Whether an outcome is this fault. -/
def faults (o : Res) (r : Fault) : Bool :=
  match o with
  | .fault r' => decide (r' = r)
  | _ => false

/-- The submission of vector V2. -/
def v2 : Submission where
  address := 0x78#8
  pfx := 0x0100
  pfxLen := 1
  data := 0x0200
  dataLen := 3
  cb := 0x0005
  arg := 0x00AA
  fastFail := true

/-- The submission of vector V6. -/
def v6 : Submission where
  address := 0x7A#8
  pfx := 0
  pfxLen := 0
  data := 0x0300
  dataLen := 2
  cb := 0x0012
  arg := 0
  fastFail := true

/-- A prefix-only and a one-byte-prefix submission, for the pseudo-operations. -/
def prefixOnly : Submission where
  address := 0x78#8
  pfx := 0xFFFE
  pfxLen := 2
  data := 0
  dataLen := 0
  cb := 1
  arg := 0x0050
  fastFail := false

def onePrefix : Submission where
  address := 0x78#8
  pfx := 0x0100
  pfxLen := 1
  data := 0xFFFD
  dataLen := 3
  cb := 4
  arg := 0x0050
  fastFail := false

/-- A host with the memory and the callback table of the vectors. -/
def host : State :=
  { State.reset with
    mem := [(0x0100, 0x40#8), (0x0101, 0x41#8), (0x0200, 0x11#8), (0x0201, 0x22#8), (0x0202, 0x33#8)]
    routines := [(0x0005, []), (0x0012, [])] }

/-- A display of two pages of four pixels, its lock free. -/
def smallDisplay : Display where
  width := 4
  height := 16
  pageCount := 2
  busAddr := 0x78#8
  cursor := 0
  fb := 0x0400
  lock := false

/-- The host with one display record. -/
def withDisplay (r : Display) : State :=
  { host with displays := [(0x0050, r)] }

/-- The request of vector V2 in flight at a state, `p` prefix and `n` payload bytes still to send. -/
def flight (b : BusState) (p : PLen) (n : DLen) : State :=
  { host with
    state := b
    req := { address := 0x78#8, prefixPtr := 0x0101 - p, prefixRem := p,
             dataPtr := 0x0203 - n, dataRem := n, cb := 0x0005, cbArg := 0x00AA, fastFail := true } }

/-- The same with its event pending. -/
def due (b : BusState) (p : PLen) (n : DLen) : State :=
  { flight b p n with evPending := true }

/-- A SUBMIT of V2 performed: its START outstanding. -/
def started : State :=
  { flight .slaveAddress 1 3 with
    cmdq := [{ word := startWord, stalls := false }]
    wireTrace := [.start] }

/-- The handler about to end the transaction of V2, its STOP not yet commanded. -/
def ending : State :=
  { due .stop 0 0 with
    wireTrace := [.start, .write 0x78#8, .write 0x40#8, .write 0x11#8, .write 0x22#8, .write 0x33#8] }

/-- A main-line SUBMIT of V6, as a line. -/
def v6Line : HostAct := .line (.sub (encodeSub Widths.default v6))

/-! ### Well-formedness -/

theorem test_wf_v2 : (Instr.submit v2).wf Widths.default = true := by decide
theorem test_wf_refuses_reference_without_count :
    (Instr.submit { v2 with pfxLen := 0 }).wf Widths.default = false := by decide
theorem test_wf_refuses_count_without_reference :
    (Instr.submitHost { v2 with pfx := 0 }).wf Widths.default = false := by decide
theorem test_wf_refuses_wrap :
    (Instr.submitSpin { v2 with pfx := 0xFFFF, pfxLen := 2 }).wf Widths.default = false := by decide
theorem test_wf_refuses_data_wrap : (Instr.submit { v2 with data := 0xFFFE }).wf Widths.default = false := by decide
theorem test_wf_refuses_none_callback : (Instr.submit { v2 with cb := 0 }).wf Widths.default = false := by decide
theorem test_wf_refuses_complete_none : (Instr.complete 0 7).wf Widths.default = false := by decide
theorem test_wf_refuses_complete_client : (Instr.complete 4 7).wf Widths.default = false := by decide
theorem test_wf_refuses_cmd_without_buffer :
    (Instr.submitCmd 0x78#8 0 4 2 0x50).wf Widths.default = false := by decide
theorem test_wf_refuses_cmd_none :
    (Instr.submitCmd 0x78#8 0x28 4 0 0x50).wf Widths.default = false := by decide
theorem test_wf_refuses_page_null_prefix :
    (Instr.submitPage 0x78#8 0 0x0400 4 4 0x50).wf Widths.default = false := by decide
theorem test_wf_refuses_page_null_buffer :
    (Instr.submitPage 0x78#8 0x2C 0 4 4 0x50).wf Widths.default = false := by decide
theorem test_wf_refuses_page_none :
    (Instr.submitPage 0x78#8 0x2C 0x0400 4 0 0x50).wf Widths.default = false := by decide
theorem test_wf_display : (Instr.displayInit 0x50 128 64 0x0400 0 0x78#8).wf Widths.default = true := by decide
/-- Vector V59. -/
theorem test_wf_refuses_height_60 :
    (Instr.displayInit 0x50 128 60 0x0400 0 0x78#8).wf Widths.default = false := by decide
theorem test_wf_refuses_height_72 :
    (Instr.displayInit 0x50 128 72 0x0400 0 0x78#8).wf Widths.default = false := by decide
theorem test_wf_refuses_height_0 :
    (Instr.displayInit 0x50 128 0 0x0400 0 0x78#8).wf Widths.default = false := by decide
theorem test_wf_refuses_width_0 :
    (Instr.displayInit 0x50 0 64 0x0400 0 0x78#8).wf Widths.default = false := by decide
theorem test_wf_refuses_frame_past_the_top :
    (Instr.displayInit 0x50 128 64 0xFC01 0 0x78#8).wf Widths.default = false := by decide
theorem test_params_reset_wf : Params.reset.wf = true := by decide
theorem test_params_refuse_short_template : { Params.reset with selTemplate := [0xE0#8] }.wf = false := by decide
theorem test_params_refuse_page_index_6 : { Params.reset with selPageIndex := 6 }.wf = false := by decide
theorem test_params_refuse_short_brightness : { Params.reset with brightTemplate := [] }.wf = false := by decide
theorem test_params_refuse_null_buffer : { Params.reset with selBuf := 0 }.wf = false := by decide

/-! ### Decoding, from the encodings of spec/30_encoding.md -/

/-- Rule R71, vector V1. -/
theorem test_decode_states :
    decode Widths.default (.st 0b000#3) = .ok .evIdle ∧ decode Widths.default (.st 0b001#3) = .ok .evStop ∧
      decode Widths.default (.st 0b010#3) = .ok .evSlaveAddress ∧
      decode Widths.default (.st 0b011#3) = .ok .evWritePrefix ∧
      decode Widths.default (.st 0b100#3) = .ok .evWriteByte := by decide
/-- Vector V28. -/
theorem test_decode_refuses_state_101 : decode Widths.default (.st 0b101#3) = .error .reservedState := by decide
/-- Rule R73, vector V2: each field a whole number of hex digits. -/
theorem test_decode_submit : decode Widths.default (.sub 0x7801000102000003000500AA01) = .ok (.submit v2) := by decide
/-- Vector V7: every field at its maximum. -/
theorem test_decode_submit_max :
    decode Widths.default (.sub 0xFFFF01FF0001FFFFFFFFFFFF01)
      = .ok (.submit { address := 0xFF#8, pfx := 0xFF01, pfxLen := 0xFF, data := 1, dataLen := 0xFFFF,
                       cb := 0xFFFF, arg := 0xFFFF, fastFail := true }) := by decide
/-- Vector V8. -/
theorem test_decode_refuses_reserved_bit :
    decode Widths.default (.sub 0x7801000102000003000500AA03) = .error .reservedSubBits := by decide
/-- Rule R76, vector V9: op 00, 01, 10 with wdata, 11. -/
theorem test_decode_commands :
    decode Widths.default (.cmd 0b0000000000#10) = .ok .busNone ∧
      decode Widths.default (.cmd 0b0100000000#10) = .ok .busStart ∧
      decode Widths.default (.cmd 0b1001111000#10) = .ok (.busWrite 0x78#8) ∧
      decode Widths.default (.cmd 0b1100000000#10) = .ok .busStop := by decide
/-- Rule R77, vector V9a. -/
theorem test_decode_completions :
    decode Widths.default (.cpl 0x000500AA) = .ok (.complete 5 0xAA) ∧
      decode Widths.default (.cpl 0x00010050) = .ok (.cbNop 0x50) ∧
      decode Widths.default (.cpl 0x00020050) = .ok (.cbRelease 0x50) ∧
      decode Widths.default (.cpl 0x00030050) = .ok (.cbSelectDone 0x50) ∧
      decode Widths.default (.cpl 0x00040050) = .ok (.cbXferDone 0x50) := by decide
/-- Rule R83, vector V9b: the ids, with the operands of rule R87 beside them. -/
theorem test_decode_host_lines :
    decode Widths.default (.host 0#4 [0x7801000102000003000500AA01]) = .ok (.submitHost v2) ∧
      decode Widths.default (.host 1#4 [0x50]) = .ok (.lockAcquire 0x50) ∧
      decode Widths.default (.host 2#4 [0x50]) = .ok (.lockTry 0x50) ∧
      decode Widths.default (.host 3#4 [0x50]) = .ok (.lockRelease 0x50) ∧
      decode Widths.default (.host 4#4 [0x50, 128, 64, 0x0400, 400000, 0x78])
        = .ok (.displayInit 0x50 128 64 0x0400 400000 0x78#8) ∧
      decode Widths.default (.host 5#4 [0x50]) = .ok (.refreshStart 0x50) ∧
      decode Widths.default (.host 6#4 [0x50, 128]) = .ok (.brightnessSet 0x50 128#8) := by decide
theorem test_decode_refuses_host_7_and_15 :
    decode Widths.default (.host 7#4 []) = .error .reservedHostId ∧
      decode Widths.default (.host 15#4 [0]) = .error .reservedHostId := by decide
/-- Rule R87: too many and too few operands. -/
theorem test_decode_refuses_operand_counts :
    decode Widths.default (.host 1#4 [0x50, 0]) = .error .operandCount ∧
      decode Widths.default (.host 6#4 [0x50]) = .error .operandCount ∧
      decode Widths.default (.pseudo 1#2 []) = .error .operandCount := by decide
/-- A level of 9 bits (rule R184), a display reference and a callback identifier of 17 (rule R6). -/
theorem test_decode_refuses_wide_operands :
    decode Widths.default (.host 6#4 [0x50, 256]) = .error .operandWidth ∧
      decode Widths.default (.host 2#4 [0x10000]) = .error .operandWidth ∧
      decode Widths.default (.pseudo 1#2 [0x78, 0x28, 4, 0x10000, 0x50]) = .error .operandWidth := by decide
/-- A SUB word of 105 bits, a CPL word of 33 (rule R70). -/
theorem test_decode_refuses_long_words :
    decode Widths.default (.sub 0x100000000000000000000000000) = .error .wrongLength ∧
      decode Widths.default (.cpl 0x100000000) = .error .wrongLength := by decide
/-- Rule R88, with the model's numbers (log 12). -/
theorem test_decode_pseudo :
    decode Widths.default (.pseudo 0#2 [0x78, 0x0100, 1, 0x0200, 3, 5, 0xAA, 1]) = .ok (.submitSpin v2) ∧
      decode Widths.default (.pseudo 1#2 [0x78, 0x28, 4, 2, 0x50]) = .ok (.submitCmd 0x78#8 0x28 4 2 0x50) ∧
      decode Widths.default (.pseudo 2#2 [0x78, 0x2C, 0x0400, 4, 4, 0x50])
        = .ok (.submitPage 0x78#8 0x2C 0x0400 4 4 0x50) ∧
      decode Widths.default (.pseudo 3#2 []) = .error .reservedPseudo := by decide
theorem test_decode_table_words :
    decodeTableWord 104 0x7801000102000003000500AA01 = some (.submit v2) ∧
      decodeTableWord 16 0x278 = some (.busWrite 0x78#8) ∧
      decodeTableWord 32 0x00020050 = some (.cbRelease 0x50) ∧
      decodeTableWord 8 4 = some .evWriteByte ∧ decodeTableWord 8 6 = some (.brightnessSet 0 0#8) ∧
      decodeTableWord 4 2 = some (.lockTry 0) ∧ decodeTableWord 8 0x10 = none := by decide

/-- Rules R6, R73 at other widths: 24-bit addresses, counts of 4 and 12 bits, 8-bit identifiers and
arguments make a SUB word of 96 bits, its fields whole hex digits as rule R73 orders them. -/
def wideAddresses : Widths where
  ptrW := 24
  plenW := 4
  dlenW := 12
  cbW := 8
  argW := 8

theorem test_decode_at_other_widths :
    subLength wideAddresses = 96 ∧
      decode wideAddresses (.sub 0x780123452ABCDEF00305AA01)
        = .ok (.submit { address := 0x78#8, pfx := 0x012345, pfxLen := 2, data := 0xABCDEF, dataLen := 3, cb := 5,
                         arg := 0xAA, fastFail := true }) ∧
      decode wideAddresses (.cpl 0x0250) = .ok (.cbRelease 0x50) := by decide

/-! ### Client bytes -/

/-- Vectors V9c and V9d. -/
theorem test_select_byte :
    selectByte { Params.reset with selTemplate := [0#8, 0#8, 0#8, 0#8, 0#8, 0xB0#8] } 7 = 0xB7#8 ∧
      selectByte { Params.reset with selTemplate := [0#8, 0#8, 0#8, 0#8, 0#8, 0x99#8] } 2 = 0x92#8 := by decide

/-! ### SUBMIT -/

/-- Vector V10. -/
theorem test_submit_accepted :
    gives (exec (.submit v2) host) (fun t =>
      decide (t.state = .slaveAddress ∧ t.req = (flight .slaveAddress 1 3).req ∧ t.wireTrace = [.start] ∧
        t.answer = some .ok ∧ t.cmdq.map Command.word = [0x100#10] ∧ t.readTrace = [])) = true := by decide
/-- Vector V14. -/
theorem test_submit_rejected_in_stop :
    gives (exec (.submitHost v6) (flight .stop 0 0)) (fun t =>
      decide (t = { flight .stop 0 0 with answer := some .busy })) = true := by decide
/-- Vectors V17, V18, V19, V19a. -/
theorem test_submit_refuses_ill_formed :
    refuses (exec (.submit { v2 with pfxLen := 0 }) host)
        (.illFormedSubmission (.ofPrefix .referenceWithoutCount)) = true ∧
      refuses (exec (.submit { v2 with pfx := 0, pfxLen := 2 }) host)
        (.illFormedSubmission (.ofPrefix .countWithoutReference)) = true ∧
      refuses (exec (.submit { v2 with cb := 0 }) host) (.illFormedSubmission .noneCallback) = true ∧
      refuses (exec (.submit { v2 with pfx := 0xFFFF, pfxLen := 2 }) host)
        (.illFormedSubmission (.ofPrefix .wraps)) = true := by decide
/-- Vector V39. -/
theorem test_submit_refuses_unreadable :
    refuses (exec (.submit v2) { host with par := { Params.reset with holes := [(0x0202, 1)] } })
      (.illFormedSubmission (.ofData .unreadable)) = true := by decide
/-- Vector V19b: the blocking request stands again as main-line's next line. -/
theorem test_submit_blocks :
    gives (exec (.submit { v6 with fastFail := false })
        { flight .stop 0 0 with par := { Params.reset with fastFail0Blocks := true } }) (fun t =>
      decide (t.main = [.line (.sub 0x7A000000030000020012000000)] ∧ t.answer = none)) = true := by decide
/-- Rule R88: the three spins in Idle. -/
theorem test_spins_accepted :
    gives (exec (.submitSpin v2) host) (fun t => decide (t.req = (flight .idle 1 3).req ∧ t.answer = none)) = true ∧
      gives (exec (.submitCmd 0x78#8 0x28 4 2 0x50) host) (fun t =>
        decide (t.req.prefixPtr = 0x28 ∧ t.req.prefixRem = 4 ∧ t.req.dataRem = 0)) = true ∧
      gives (exec (.submitPage 0x78#8 0x2C 0x0400 4 4 0x50) host) (fun t =>
        decide (t.req.prefixPtr = 0x2C ∧ t.req.prefixRem = 1 ∧ t.req.dataPtr = 0x0400 ∧
          t.req.dataRem = 4 ∧ t.req.fastFail = false)) = true := by decide
theorem test_spin_repeats :
    gives (exec (.submitCmd 0x78#8 0x28 4 2 0x50) (flight .writeByte 0 1)) (fun t =>
      decide (t.main = [.line (.pseudo 0#2 [0x78, 0x28, 4, 0, 0, 2, 0x50, 0])])) = true := by decide

/-! ### Event steps -/

/-- Vector V20. -/
theorem test_slave_address :
    gives (exec .evSlaveAddress (flight .slaveAddress 1 3)) (fun t =>
      decide (t.state = .writePrefix ∧ t.cmdq.map Command.word = [0x278#10] ∧ t.readTrace = [] ∧
        t.req = (flight .slaveAddress 1 3).req)) = true := by decide
/-- Vectors V21, V22. -/
theorem test_slave_address_without_prefix :
    gives (exec .evSlaveAddress (flight .slaveAddress 0 3)) (fun t => decide (t.state = .writeByte)) = true ∧
      gives (exec .evSlaveAddress (flight .slaveAddress 0 0)) (fun t => decide (t.state = .stop)) = true := by
  decide
/-- Vector V23a: the last prefix byte, a payload to follow. -/
theorem test_write_prefix_last :
    gives (exec .evWritePrefix (flight .writePrefix 1 3)) (fun t =>
      decide (t.state = .writeByte ∧ t.cmdq.map Command.word = [0x240#10] ∧ t.readTrace = [0x0100] ∧
        t.req.prefixPtr = 0x0101 ∧ t.req.prefixRem = 0 ∧ t.req.dataPtr = 0x0200)) = true := by decide
/-- Vector V23b: the last prefix byte, no payload; vector V23: not the last. -/
theorem test_write_prefix_others :
    gives (exec .evWritePrefix (flight .writePrefix 1 0)) (fun t => decide (t.state = .stop)) = true ∧
      gives (exec .evWritePrefix (flight .writePrefix 2 0)) (fun t =>
        decide (t.state = .writePrefix ∧ t.req.prefixRem = 1)) = true := by decide
/-- Vectors V24, V24a. -/
theorem test_write_byte :
    gives (exec .evWriteByte (flight .writeByte 0 3)) (fun t =>
        decide (t.state = .writeByte ∧ t.cmdq.map Command.word = [0x211#10] ∧ t.req.dataPtr = 0x0201)) = true ∧
      gives (exec .evWriteByte (flight .writeByte 0 1)) (fun t =>
        decide (t.state = .stop ∧ t.cmdq.map Command.word = [0x233#10] ∧ t.req.dataRem = 0)) = true := by decide
/-- Vector V24b: the cursor wraps to 0. -/
theorem test_write_byte_at_the_top :
    gives (exec .evWriteByte
        { host with state := .writeByte, mem := [(0xFFFF, 0x02#8)],
                    req := { Req.reset with dataPtr := 0xFFFF, dataRem := 1 } }) (fun t =>
      decide (t.state = .stop ∧ t.cmdq.map Command.word = [0x202#10] ∧ t.req.dataPtr = 0)) = true := by decide
/-- Vector V25. -/
theorem test_stop :
    gives (exec .evStop (flight .stop 0 0)) (fun t =>
      decide (t.state = .idle ∧ t.req = (flight .stop 0 0).req ∧ t.cmdq.map Command.word = [0x300#10] ∧
        t.wireTrace = [.stop] ∧ t.complTrace = [{ cb := 5, arg := 0xAA }])) = true := by decide
/-- Vector V26. -/
theorem test_idle_again :
    gives (exec .evIdle { flight .idle 0 0 with wireTrace := [.stop] }) (fun t =>
      decide (t.state = .idle ∧ t.wireTrace = [.stop, .stop] ∧
        t.complTrace = [{ cb := 5, arg := 0xAA }])) = true := by decide
/-- Vector V27. -/
theorem test_idle_after_reset_faults : faults (exec .evIdle State.reset) .noCallback = true := by decide

/-! ### Bus commands -/

/-- Rules R56, R57. -/
theorem test_bus_commands :
    gives (exec .busStart host) (fun t => t.evPending && decide (t.wires = [.start])) = true ∧
      gives (exec (.busWrite 0x78#8) host) (fun t => t.evPending && decide (t.wires = [.write 0x78#8])) = true ∧
      gives (exec .busStop host) (fun t => !t.evPending && decide (t.wires = [.stop])) = true ∧
      gives (exec .busNone host) (fun t => !t.evPending && decide (t.wires = [])) = true := by decide

/-! ### Completions and callbacks -/

/-- Rule R150: a routine's lines run on the argument of the invocation (vector V40's body, V6). -/
theorem test_complete_runs_the_body :
    gives (exec (.complete 6 0x50)
        { host with routines := [(6, [.lineOnArg (.host 3#4 [0]), v6Line])] }) (fun t =>
      decide (t.ctx = .handler ∧ t.complTrace = [{ cb := 6, arg := 0x50 }] ∧
        t.todo = [.line (.host 3#4 [0x50]), v6Line])) = true := by decide
theorem test_complete_none_faults : faults (exec (.complete 0 7) host) .noCallback = true := by decide
theorem test_cb_nop : gives (exec (.cbNop 0x50) host) (fun t => decide (t = host)) = true := by decide
theorem test_cb_release :
    gives (exec (.cbRelease 0x50) (withDisplay { smallDisplay with lock := true })) (fun t =>
      decide (t.display 0x50 = smallDisplay)) = true := by decide
/-- Vector V60. -/
theorem test_cb_select_done :
    gives (exec (.cbSelectDone 0x50)
        (withDisplay { smallDisplay with width := 128, height := 64, pageCount := 8, cursor := 3 })) (fun t =>
      decide (t.req = { address := 0x78#8, prefixPtr := 0x2C, prefixRem := 1, dataPtr := 0x0580,
                        dataRem := 128, cb := 4, cbArg := 0x50, fastFail := false })) = true := by decide
/-- Vector V61. -/
theorem test_cb_xfer_done :
    gives (exec (.cbXferDone 0x50)
        (withDisplay { smallDisplay with pageCount := 8, cursor := 6, lock := true })) (fun t =>
      decide ((t.display 0x50).cursor = 7 ∧ (t.display 0x50).lock = true ∧ t.readByte 0x25 = 0x97#8 ∧
        t.state = .slaveAddress ∧ t.req.cb = 3)) = true := by decide
/-- Vector V62. -/
theorem test_cb_xfer_done_last :
    gives (exec (.cbXferDone 0x50)
        (withDisplay { smallDisplay with pageCount := 8, cursor := 7, lock := true })) (fun t =>
      decide ((t.display 0x50).cursor = 8 ∧ (t.display 0x50).lock = false ∧ t.state = .idle ∧
        t.wireTrace = [])) = true := by decide

/-! ### Lock and clients -/

/-- Vectors V50, V51. -/
theorem test_lock_try :
    gives (exec (.lockTry 0x50) host) (fun t =>
        decide ((t.display 0x50).lock = true ∧ t.answer = some .ok)) = true ∧
      gives (exec (.lockTry 0x50) (withDisplay { smallDisplay with lock := true })) (fun t =>
        decide ((t.display 0x50).lock = true ∧ t.answer = some .busy)) = true := by decide
/-- Vectors V53, V54. -/
theorem test_lock_release :
    gives (exec (.lockRelease 0x50) (withDisplay { smallDisplay with lock := true })) (fun t =>
        decide ((t.display 0x50).lock = false)) = true ∧
      gives (exec (.lockRelease 0x50) (withDisplay smallDisplay)) (fun t =>
        decide ((t.display 0x50).lock = false)) = true := by decide
/-- Vector V55, one poll while the lock is held. -/
theorem test_lock_acquire :
    gives (exec (.lockAcquire 0x50) host) (fun t => decide ((t.display 0x50).lock = true ∧ t.main = [])) = true ∧
      gives (exec (.lockAcquire 0x50) (withDisplay { smallDisplay with lock := true })) (fun t =>
        decide (t.main = [.line (.host 1#4 [0x50])])) = true := by decide
/-- Vector V57. -/
theorem test_display_init :
    gives (exec (.displayInit 0x50 128 64 0x0400 9 0x78#8) host) (fun t =>
      decide (t.display 0x50 = { width := 128, height := 64, pageCount := 8, busAddr := 0x78#8, cursor := 0,
                                    fb := 0x0400, lock := false } ∧ t.answer = some .ok ∧ t.busFreq = 9 ∧
        t.req = { address := 0x78#8, prefixPtr := 0x30, prefixRem := 3, dataPtr := 0, dataRem := 0,
                  cb := 1, cbArg := 0x50, fastFail := true } ∧ t.wireTrace = [.start])) = true := by decide
/-- Vector V58. -/
theorem test_display_init_busy :
    gives (exec (.displayInit 0x50 128 64 0x0400 9 0x78#8) (flight .stop 0 0)) (fun t =>
      decide ((t.display 0x50).pageCount = 8 ∧ t.answer = some .busy ∧ t.state = .stop ∧
        t.req = (flight .stop 0 0).req)) = true := by decide
/-- Program P3 step 5. -/
theorem test_refresh_start :
    gives (exec (.refreshStart 0x50) (withDisplay { smallDisplay with cursor := 2, lock := true })) (fun t =>
      decide ((t.display 0x50).cursor = 0 ∧ t.readByte 0x25 = 0x90#8 ∧ t.req.cb = 3 ∧
        t.req.prefixPtr = 0x20 ∧ t.req.prefixRem = 6)) = true := by decide
/-- Program P3 step 3: the patch is made before the spin. -/
theorem test_refresh_start_busy :
    gives (exec (.refreshStart 0x50)
        { flight .stop 0 0 with displays := [(0x0050, { smallDisplay with cursor := 2 })], mem := [(0x25, 0x91#8)] })
      (fun t => decide (t.readByte 0x25 = 0x90#8 ∧ t.main = [.line (.pseudo 0#2 [0x78, 0x20, 6, 0, 0, 3, 0x50, 0])]))
      = true := by decide
/-- Vector V63. -/
theorem test_brightness_set :
    gives (exec (.brightnessSet 0x50 128#8) (withDisplay smallDisplay)) (fun t =>
      decide ((t.display 0x50).lock = true ∧ t.readByte 0x2B = 0x80#8 ∧
        t.req = { address := 0x78#8, prefixPtr := 0x28, prefixRem := 4, dataPtr := 0, dataRem := 0,
                  cb := 2, cbArg := 0x50, fastFail := false })) = true := by decide
/-- T7: deferred while a refresh holds the lock. -/
theorem test_brightness_set_deferred :
    gives (exec (.brightnessSet 0x50 128#8) (withDisplay { smallDisplay with lock := true })) (fun t =>
      decide (t.main = [.line (.host 6#4 [0x50, 128])] ∧ t.state = .idle)) = true := by decide

/-! ### The step and the placing of a word -/

/-- Vector V70. -/
theorem test_handler_takes_the_event :
    gives (step (due .slaveAddress 1 3)) (fun t =>
      decide (t.state = .writePrefix ∧ t.evPending = false ∧ t.ctx = .main)) = true := by decide
/-- Vector V45: the event is held while the callback has a line left. -/
theorem test_event_is_held :
    gives (step { due .slaveAddress 1 3 with ctx := .handler, todo := [.memw 0x10 1#8, v6Line] }) (fun t =>
      decide (t.evPending = true ∧ t.ctx = .handler ∧ t.state = .slaveAddress)) = true := by decide
theorem test_place_event : gives (step ((flight .idle 1 3).withFetchWord 8 3)) (fun t =>
      decide (t.state = .writeByte ∧ t.req.prefixRem = 0)) = true := by decide
theorem test_place_command :
    gives (step (State.reset.withFetchWord 16 0x278)) (fun t => decide (t.wires = [.write 0x78#8])) = true := by decide
theorem test_place_completion :
    gives (step (State.reset.withFetchWord 32 0x00020050)) (fun t =>
      decide (t.ctx = .main ∧ t.displays = [])) = true := by decide
theorem test_place_submit :
    gives (step (host.withFetchWord 104 0x7801000102000003000500AA01)) (fun t =>
      decide (t.state = .slaveAddress ∧ t.answer = some .ok)) = true := by decide
/-- A reserved ST code is placed nowhere (log 28). -/
theorem test_place_reserved_code : State.reset.withFetchWord 3 5 = State.reset := by decide
/-- Rule R151: a callback's routine advances the cursor of the display its argument names. -/
theorem test_routine_updates_client_state :
    gives (step { withDisplay smallDisplay with
        ctx := .handler, todo := [bindArg Widths.default 0x50 (.updateOnArg .advanceCursor)] })
      (fun t => decide ((t.display 0x50).cursor = 1 ∧ t.ctx = .main)) = true := by decide
/-- Rule R28: a frame buffer reference and a display reference of 17 bits are assigned nowhere (log 29). -/
theorem test_wide_assignments_are_refused :
    refuses (runLine (.update 0x50 (.fb 0x10000)) host) .wideAssignment = true ∧
      refuses (runLine (.update 0x10000 (.cursor 1)) host) .wideAssignment = true ∧
      gives (runLine (.update 0xFFFF (.fb 0xFFFF)) host) (fun t => decide ((t.display 0xFFFF).fb = 0xFFFF)) = true := by
  decide
/-- Rule R211: with a command outstanding, REFRESH.START stands line by line before the lines after it. -/
theorem test_procedure_is_preempted :
    gives (runMainline { started with main := [.line (.host 5#4 [0x50]), v6Line] }) (fun t =>
      decide (t.main = [.update 0x50 (.cursor 0), .part (.patchSelect 0x50), .part (.submitSelect 0x50), v6Line] ∧
        t.mem = started.mem)) = true := by decide
/-- Rule R40: no byte of host memory has an address of 17 bits. -/
theorem test_store_beyond_memory_faults :
    faults (step { host with main := [.memw 0x10000 1#8] }) .noSuchAddress = true := by decide
theorem test_wrong_port :
    refuses (step { host with main := [.line (.cmd 0x100#10)] }) .wrongPort = true := by decide

/-! ### Witnesses: for every statement with hypotheses, inputs that meet them -/

theorem runMet_of {p : Params} {ptr len : Nat} (h : runFlaw p ptr len = none) : RunMet p ptr len :=
  (runFlaw_none_iff_runMet p ptr len).1 h

theorem v2_met {s : State} (hp : s.par = Params.reset) (hr : s.routines = host.routines) : ContractMet s v2 := by
  refine ⟨runMet_of ?_, runMet_of ?_, by rw [hp]; decide, by decide, .inr (.inr (.inr (.inr ⟨[], ?_⟩)))⟩
  · rw [hp]; decide
  · rw [hp]; decide
  · rw [hr]; decide

theorem v6_met {s : State} (hp : s.par = Params.reset) (hr : s.routines = host.routines) : ContractMet s v6 := by
  refine ⟨.inl ⟨rfl, rfl⟩, runMet_of ?_, by rw [hp]; decide, by decide, .inr (.inr (.inr (.inr ⟨[], ?_⟩)))⟩
  · rw [hp]; decide
  · rw [hr]; decide

/-- A prefix whose last byte is the last of the address space. -/
theorem prefixOnly_met {s : State} (hp : s.par = Params.reset) : ContractMet s prefixOnly :=
  ⟨runMet_of (by rw [hp]; decide), .inl ⟨rfl, rfl⟩, by rw [hp]; decide, by decide, .inl rfl⟩

/-- A payload whose last byte is the last of the address space. -/
theorem onePrefix_met {s : State} (hp : s.par = Params.reset) : ContractMet s onePrefix :=
  ⟨runMet_of (by rw [hp]; decide), runMet_of (by rw [hp]; decide), by rw [hp]; decide, by decide,
    .inr (.inr (.inr (.inl rfl)))⟩

/-- At the defaults, and at other widths with counts at their maxima. -/
theorem witness_decodeOfEncode :
    Widths.default.wf = true ∧ (Instr.submit v2).wf Widths.default = true ∧
      (Instr.complete 0xFFFF 0).wf Widths.default = true ∧
      (Instr.submitCmd 0x78#8 0xFFFE 2 1 0).wf Widths.default = true ∧ wideAddresses.wf = true ∧
      (Instr.submit { v2 with pfxLen := 15, dataLen := 4095, cb := 255, arg := 255 }).wf wideAddresses = true := by
  decide
theorem witness_encodeOfDecode :
    decode Widths.default (.sub 0x7801000102000003000500AA01) = .ok (.submit v2) ∧
      (PortWord.sub 0x7801000102000003000500AA01).format ≠ .cmd := by decide
theorem witness_reservedWords :
    5 ≤ (5#3).toNat ∧ 5 ≤ (7#3).toNat ∧
      (2 < 2 ^ subLength Widths.default ∧ (2 : Nat).testBit 1 = true) ∧
      (0x80 < 2 ^ subLength Widths.default ∧ (0x80 : Nat).testBit 7 = true) ∧
      2 ^ subLength Widths.default ≤ 0x100000000000000000000000000 ∧
      2 ^ (Widths.default.cbW + Widths.default.argW) ≤ 0x100000000 ∧
      7 ≤ (7#4).toNat ∧ 7 ≤ (15#4).toNat := by decide

theorem witness_stepRuns_mainline :
    let s : State := { host with main := [v6Line] }
    let w : PortWord := .sub 0x7A000000030000020012000001
    s.ctx = .main ∧ s.evPending = false ∧ engineReady s = false ∧ s.main = .line w :: [] ∧
      portCarries .main w = true ∧ decode s.par.widths w = .ok (.submit v6) := by decide
theorem witness_stepRuns_handler :
    let s := due .stop 0 0
    s.ctx = .main ∧ s.evPending = true ∧ engineReady s = false ∧ s.main = [] ∧
      decode s.par.widths (.st (stateCode s.state)) = .ok .evStop := by decide
theorem witness_stepRuns_engine :
    started.ctx = .main ∧ started.evPending = false ∧ started.main = [] ∧
      started.cmdq = { word := 0x100#10, stalls := false } :: [] ∧
      decode started.par.widths (.cmd 0x100#10) = .ok .busStart := by decide
theorem witness_stepRuns_callback :
    let w : PortWord := .cpl 0x00020050
    let s : State := { host with ctx := .handler, todo := [.line w] }
    s.ctx = .handler ∧ engineReady s = false ∧ s.todo = .line w :: [] ∧ portCarries .handler w = true ∧
      decode s.par.widths w = .ok (.cbRelease 0x50) := by decide
/-- Vector V43. -/
theorem witness_eitherOrder :
    let s : State := { due .stop 0 0 with main := [v6Line] }
    s.ctx = .main ∧ s.evPending = true ∧ s.main ≠ [] ∧ engineReady s = false := by decide
/-- A procedure with its event pending, one with a command outstanding; the lock free for the third. -/
theorem witness_procedureLines :
    let s : State := { due .stop 0 0 with main := [.line (.host 5#4 [0x50])] }
    (s.evPending = true ∧ engineReady started = true ∧
      decode s.par.widths (.host 5#4 [0x50]) = .ok (.refreshStart 0x50) ∧
      partsOf s.par (.refreshStart 0x50)
        = some [.update 0x50 (.cursor 0), .part (.patchSelect 0x50), .part (.submitSelect 0x50)]) ∧
      (64 % 8 = 0 ∧ 8 ≤ 64 ∧ 1 ≤ 128 ∧ 0xFC00 + 128 * (64 / 8) ≤ 2 ^ s.par.widths.ptrW) ∧
      (s.display 0x50).lock = false ∧ 0xFFFF < 2 ^ s.par.widths.argW := by decide
theorem witness_openWindow :
    let s : State := { due .slaveAddress 1 3 with ctx := .handler, todo := [.memw 0x10 1#8, v6Line] }
    s.ctx = .handler ∧ s.evPending = true ∧ ∃ t, step s = .next t := ⟨rfl, rfl, _, rfl⟩
theorem witness_handlerConsumes : ∃ t, runHandler ending = .next t := ⟨_, rfl⟩
theorem witness_stalledBus :
    let s : State := { started with cmdq := [{ word := startWord, stalls := true }] }
    s.stuckBus = true ∧ s.ctx = .main ∧ s.main = [] := by decide
theorem witness_mainContext : WindowOpen ending ∧ ∃ t, step ending = .next t := ⟨fun _ => rfl, _, rfl⟩

theorem witness_accepted : ContractMet host v2 ∧ host.state = .idle := ⟨v2_met rfl rfl, rfl⟩
/-- Vectors V11 to V14: with `P_FASTFAIL0_BLOCKS` = false, and with `fastFail` = 1. -/
theorem witness_rejected :
    ContractMet (flight .stop 0 0) v6 ∧ (flight .stop 0 0).state ≠ .idle ∧
      (flight .stop 0 0).par.fastFail0Blocks = false ∧ v6.fastFail = true :=
  ⟨v6_met rfl rfl, by decide, rfl, rfl⟩
theorem witness_blocking :
    let s : State := { flight .stop 0 0 with par := { Params.reset with fastFail0Blocks := true } }
    ContractMet s prefixOnly ∧ s.state ≠ .idle ∧ s.par.fastFail0Blocks = true ∧ prefixOnly.fastFail = false :=
  ⟨⟨runMet_of (by decide), .inl ⟨rfl, rfl⟩, by decide, by decide, .inl rfl⟩, by decide, rfl, rfl⟩
/-- Vector V19, and for SUBMIT.CMD and SUBMIT.PAGE the expansions with that callback. -/
theorem witness_illFormed :
    ¬ContractMet host { v2 with cb := 0 } ∧
      (¬ContractMet host { prefixOnly with cb := 0 } ∧ prefixOnly.data = 0 ∧ prefixOnly.dataLen = 0 ∧
        prefixOnly.fastFail = false) ∧
      (¬ContractMet host { onePrefix with cb := 0 } ∧ onePrefix.pfxLen = 1 ∧ onePrefix.fastFail = false) :=
  ⟨fun h => h.2.2.2.1 rfl, ⟨fun h => h.2.2.2.1 rfl, rfl, rfl, rfl⟩, fun h => h.2.2.2.1 rfl, rfl, rfl⟩
theorem witness_spinInIdle :
    ContractMet host v2 ∧ host.state = .idle ∧
      (ContractMet host prefixOnly ∧ prefixOnly.data = 0 ∧ prefixOnly.dataLen = 0 ∧ prefixOnly.fastFail = false) ∧
      (ContractMet host onePrefix ∧ onePrefix.pfxLen = 1 ∧ onePrefix.fastFail = false) :=
  ⟨v2_met rfl rfl, rfl, ⟨prefixOnly_met rfl, rfl, rfl, rfl⟩, onePrefix_met rfl, rfl, rfl⟩
theorem witness_spinWhileBusy :
    (flight .stop 0 0).state ≠ .idle ∧ ContractMet (flight .stop 0 0) v2 ∧
      (ContractMet (flight .stop 0 0) prefixOnly ∧ prefixOnly.data = 0 ∧ prefixOnly.dataLen = 0 ∧
        prefixOnly.fastFail = false) ∧
      (ContractMet (flight .stop 0 0) onePrefix ∧ onePrefix.pfxLen = 1 ∧ onePrefix.fastFail = false) :=
  ⟨by decide, v2_met rfl rfl, ⟨prefixOnly_met rfl, rfl, rfl, rfl⟩, onePrefix_met rfl, rfl, rfl⟩

/-- The three clauses of the address step (vectors V22, V21, V20). -/
theorem witness_addressStep :
    ((flight .slaveAddress 0 0).req.prefixRem = 0 ∧ (flight .slaveAddress 0 0).req.dataRem = 0) ∧
      ((flight .slaveAddress 0 1).req.prefixRem = 0 ∧ (flight .slaveAddress 0 1).req.dataRem ≠ 0) ∧
      (flight .slaveAddress 1 0).req.prefixRem ≠ 0 := by decide
/-- The second clause with the first entry behind another, and a later entry for the same operand. -/
theorem witness_addressByte :
    (∀ b, (0x78#8, b) ∉ Params.reset.addrMap) ∧
      ({ Params.reset with addrMap := [(0x7A#8, 1#8), (0x78#8, 0xF0#8), (0x78#8, 2#8)] } : Params).addrMap
        = [(0x7A#8, 1#8)] ++ (0x78#8, 0xF0#8) :: [(0x78#8, 2#8)] ∧
      ∀ c, (0x78#8, c) ∉ [(0x7A#8, 1#8)] :=
  ⟨fun _ h => (nomatch h), rfl, by simp⟩
/-- The count after the decrement in each clause (vectors V23, V23a, V23b), and at a count of zero. -/
theorem witness_prefixStep :
    let after (s : State) := (s.req.prefixRem + (2 ^ s.par.widths.plenW - 1)) % 2 ^ s.par.widths.plenW
    after (flight .writePrefix 2 3) = 1 ∧ after (flight .writePrefix 0 3) = 255 ∧
      (after (flight .writePrefix 1 1) = 0 ∧ (flight .writePrefix 1 1).req.dataRem ≠ 0) ∧
      (after (flight .writePrefix 1 0) = 0 ∧ (flight .writePrefix 1 0).req.dataRem = 0) := by decide
/-- The count after the decrement in each clause (vectors V24, V24a), and at a count of zero. -/
theorem witness_payloadStep :
    let after (s : State) := (s.req.dataRem + (2 ^ s.par.widths.dlenW - 1)) % 2 ^ s.par.widths.dlenW
    after (flight .writeByte 0 2) = 1 ∧ after (flight .writeByte 0 0) = 65535 ∧
      after (flight .writeByte 0 1) = 0 := by decide
theorem witness_endOfTransaction :
    ({ ending with req := { ending.req with cb := 1 } } : State).req.cb = 1 ∧
      5 ≤ ending.req.cb ∧ ending.routines.lookup ending.req.cb = some [] := by decide
theorem witness_noRoutine :
    State.reset.req.cb = 0 ∧
      5 ≤ ({ ending with routines := [] } : State).req.cb ∧
      ({ ending with routines := [] } : State).routines.lookup ending.req.cb = none := by decide
/-- Unchanged (LOCK.TRY, a bus command), and an accepted submission. -/
theorem witness_stateChanges :
    (Instr.lockTry 0x50).format ≠ .st ∧ (∃ t, exec (.lockTry 0x50) host = .next t) ∧
      (Instr.busStart).format = .cmd ∧ (∃ t, exec .busStart host = .next t) ∧
      (Instr.submit v2).format ≠ .st ∧ ∃ t, exec (.submit v2) host = .next t :=
  ⟨by decide, ⟨_, rfl⟩, rfl, ⟨_, rfl⟩, by decide, _, rfl⟩
theorem witness_onlyCommandBuffers :
    ∃ t, exec (.refreshStart 0x50) (withDisplay smallDisplay) = .next t := ⟨_, rfl⟩
theorem witness_parametersFixed : ∃ t, exec (.submit v2) host = .next t := ⟨_, rfl⟩

theorem witness_completeRuns : 5 ≤ 5 ∧ host.routines.lookup 5 = some [] := by decide
theorem witness_completeOfNoRoutine : 5 ≤ 0xFFFF ∧ host.routines.lookup 0xFFFF = none := by decide

/-- A one-page display whose page ends with the last byte of the address space. -/
def topDisplay : Display :=
  { smallDisplay with pageCount := 1, fb := 0xFFFC }

/-- The widths of the witnesses, with a display reference and a page width that fit them. -/
def FitsHere (s : State) (d : Arg) : Prop :=
  s.par.widths.wf = true ∧ d < 2 ^ s.par.widths.argW ∧ (s.display d).width < 2 ^ s.par.widths.dlenW

/-- A display reference of all ones fits too. -/
theorem witness_widths :
    FitsHere host 0x50 ∧ FitsHere (withDisplay topDisplay) 0x50 ∧ FitsHere (flight .stop 0 0) 0xFFFF := by
  unfold FitsHere
  decide

theorem witness_release : host.par.widths.wf = true ∧ 0x50 < 2 ^ host.par.widths.argW := by decide
theorem witness_selectDone :
    let s := withDisplay topDisplay
    FitsHere s 0x50 ∧ s.state = .idle ∧ RunMet s.par s.par.dataPfx 1 ∧
      RunMet s.par ((s.display 0x50).fb + (s.display 0x50).cursor * (s.display 0x50).width)
        (s.display 0x50).width :=
  ⟨witness_widths.2.1, rfl, runMet_of (by decide), runMet_of (by decide)⟩
/-- A page that passes the top by one byte. -/
def overTheTop : State :=
  withDisplay { topDisplay with width := 5 }

theorem witness_selectDonePastTheTop :
    ¬ContractMet overTheTop
        (pageRequest overTheTop.par 0x50 (overTheTop.display 0x50) (overTheTop.display 0x50).cursor) ∧
      RunMet overTheTop.par overTheTop.par.dataPfx 1 ∧ 1 ≤ (overTheTop.display 0x50).width ∧
      (overTheTop.display 0x50).fb + (overTheTop.display 0x50).cursor * (overTheTop.display 0x50).width ≠ 0 ∧
      2 ^ overTheTop.par.widths.ptrW <
        (overTheTop.display 0x50).fb + (overTheTop.display 0x50).cursor * (overTheTop.display 0x50).width
          + (overTheTop.display 0x50).width :=
  ⟨fun h => absurd ((runFlaw_none_iff_runMet _ _ _).2 h.2.1) (by decide), runMet_of (by decide), by decide, by decide,
    by decide⟩
theorem witness_callbackSpins :
    let s : State := { flight .stop 0 0 with displays := [(0x0050, smallDisplay)] }
    FitsHere s 0x50 ∧ s.state ≠ .idle ∧
      (RunMet s.par s.par.dataPfx 1 ∧
        RunMet s.par ((s.display 0x50).fb + (s.display 0x50).cursor * (s.display 0x50).width)
          (s.display 0x50).width) ∧
      ((s.display 0x50).cursor + 1 ≠ (s.display 0x50).pageCount ∧ RunMet s.par s.par.selBuf 6) :=
  ⟨by unfold FitsHere; decide, by decide, ⟨runMet_of (by decide), runMet_of (by decide)⟩, by decide,
    runMet_of (by decide)⟩
theorem witness_lastPage :
    let s := withDisplay { smallDisplay with cursor := 1 }
    (s.display 0x50).cursor + 1 = (s.display 0x50).pageCount := by decide
/-- The next page, and a page of 256, for which the byte is a free value. -/
theorem witness_otherPage :
    let s := withDisplay smallDisplay
    let t := withDisplay { smallDisplay with cursor := 255 }
    FitsHere s 0x50 ∧ (s.display 0x50).cursor + 1 ≠ (s.display 0x50).pageCount ∧ s.state = .idle ∧
      RunMet s.par s.par.selBuf 6 ∧ FitsHere t 0x50 ∧ (t.display 0x50).cursor + 1 ≠ (t.display 0x50).pageCount ∧
      t.state = .idle ∧ RunMet t.par t.par.selBuf 6 :=
  ⟨by unfold FitsHere; decide, by decide, rfl, runMet_of (by decide), by unfold FitsHere; decide, by decide, rfl,
    runMet_of (by decide)⟩

/-- The host inside its transaction of V2, whose callback submits twice. -/
def twice : State :=
  { ending with
    routines :=
      [(0x0012, []),
        (0x0005, [.line (.sub (encodeSub Widths.default onePrefix)), .line (.sub (encodeSub Widths.default v6))])] }

/-- Vectors V40, V41. -/
theorem witness_callbackStartsOne :
    twice.state = .stop ∧ twice.todo = [] ∧ 5 ≤ twice.req.cb ∧
      twice.routines.lookup twice.req.cb
        = some [.line (.sub (encodeSub twice.par.widths onePrefix)), .line (.sub (encodeSub twice.par.widths v6))] ∧
      ContractMet twice onePrefix ∧ ContractMet twice v6 ∧ twice.par.fastFail0Blocks = false :=
  ⟨rfl, rfl, by decide, rfl, onePrefix_met rfl,
    ⟨.inl ⟨rfl, rfl⟩, runMet_of (by decide), by decide, by decide,
      .inr (.inr (.inr (.inr ⟨[], .head _⟩)))⟩, rfl⟩

theorem witness_lock :
    ((withDisplay smallDisplay).display 0x50).lock = false ∧
      ((withDisplay { smallDisplay with lock := true }).display 0x50).lock = true := by decide
theorem witness_acquireInHandler :
    let s : State := { withDisplay { smallDisplay with lock := true } with
      ctx := .handler, todo := [.line (.host 1#4 [0x50])] }
    s.ctx = .handler ∧ (s.display 0x50).lock = true ∧ engineReady s = false ∧ 0x50 < 2 ^ s.par.widths.argW ∧
      s.todo = .line (encode s.par.widths (.lockAcquire 0x50)) :: [] := by decide

/-- The largest admitted height, and a frame buffer that ends with the last byte of the address space;
the bus idle and in flight. -/
theorem witness_displayInit :
    host.par.widths.wf = true ∧ 0x50 < 2 ^ host.par.widths.argW ∧ 64 % 8 = 0 ∧ 8 ≤ 64 ∧ 64 ≤ 64 ∧ 1 ≤ 128 ∧
      0xFC00 + 128 * (64 / 8) ≤ 2 ^ host.par.widths.ptrW ∧
      host.par.initBytes.length < 2 ^ host.par.widths.plenW ∧
      RunMet host.par host.par.initSeq host.par.initBytes.length ∧ host.state = .idle ∧
      (flight .stop 0 0).par = host.par ∧ (flight .stop 0 0).state ≠ .idle :=
  ⟨by decide, by decide, by decide, by decide, by decide, by decide, by decide, by decide, runMet_of (by decide), rfl,
    rfl, by decide⟩
theorem witness_displayRefused :
    60 % 8 ≠ 0 ∧ 0 < 8 ∧ 64 < 72 ∧ 0 = 0 ∧ 2 ^ host.par.widths.ptrW < 0xFC01 + 128 * (64 / 8) := by decide
theorem witness_refreshStart :
    FitsHere host 0x50 ∧ host.state = .idle ∧ RunMet host.par host.par.selBuf 6 ∧
      FitsHere (flight .stop 0 0) 0x50 ∧ (flight .stop 0 0).state ≠ .idle ∧
      RunMet (flight .stop 0 0).par (flight .stop 0 0).par.selBuf 6 :=
  ⟨witness_widths.1, rfl, runMet_of (by decide), by unfold FitsHere; decide, by decide, runMet_of (by decide)⟩
theorem witness_brightness :
    FitsHere host 0x50 ∧ (host.display 0x50).lock = false ∧ host.state = .idle ∧
      RunMet host.par host.par.brightBuf 4 :=
  ⟨witness_widths.1, rfl, rfl, runMet_of (by decide)⟩
theorem witness_brightnessDeferred :
    ((withDisplay { smallDisplay with lock := true }).display 0x50).lock = true ∧
      (FitsHere (flight .stop 0 0) 0xFFFF ∧ ((flight .stop 0 0).display 0xFFFF).lock = false ∧
        (flight .stop 0 0).state ≠ .idle ∧
        RunMet (flight .stop 0 0).par (flight .stop 0 0).par.brightBuf 4) :=
  ⟨by decide, witness_widths.2.2, by decide, by decide, runMet_of (by decide)⟩
/-- The last address, and the first beyond; the last reference and frame buffer address, and the first beyond
of each; the assignment of rule R151's example. -/
theorem witness_hostStore :
    0xFFFF < 2 ^ host.par.widths.ptrW ∧ 2 ^ host.par.widths.ptrW ≤ 0x10000 ∧
      0xFFFF < 2 ^ host.par.widths.argW ∧ 2 ^ host.par.widths.argW ≤ 0x10000 ∧
      ({ smallDisplay with cursor := 1 } : Display) = { (withDisplay smallDisplay).display 0x50 with cursor := 1 } := by
  decide

/-! Invariants: a state in flight and a state at the end of its transaction meet them and step. -/

theorem witness_canonical :
    let s : State := { host with main := [.memw 0x0200 0#8] }
    Canonical s ∧ ∃ t, step s = .next t := ⟨⟨by decide, by decide⟩, _, rfl⟩
theorem witness_busContract :
    BusContract started ∧ (∃ t, step started = .next t) ∧ BusContract ending ∧ ∃ t, step ending = .next t :=
  ⟨.inr ⟨rfl, startWord, .inl rfl, .inl rfl⟩, ⟨_, rfl⟩, .inl ⟨rfl, rfl⟩, _, rfl⟩
theorem witness_countRelations :
    CountsFit (due .writePrefix 1 3) ∧ (∃ t, step (due .writePrefix 1 3) = .next t) ∧
      CountsFit (due .writeByte 0 1) ∧ ∃ t, step (due .writeByte 0 1) = .next t :=
  ⟨⟨by unfold RegistersFit; decide, by decide, by decide, Nat.le_refl 1⟩, ⟨_, rfl⟩,
    ⟨by unfold RegistersFit; decide, by decide, by decide, rfl, Nat.le_refl 1⟩, _, rfl⟩
/-- A display at the last reference with its frame buffer at the last address, and a step that writes it. -/
theorem witness_recordsFit :
    let s : State :=
      { host with displays := [(0xFFFF, { smallDisplay with fb := 0xFFFF })], main := [.update 0xFFFF (.cursor 1)] }
    RecordsFit s ∧ ∃ t, step s = .next t := by
  refine ⟨?_, _, rfl⟩
  unfold RecordsFit
  decide
theorem witness_wiresInOrder : WiresInOrder started ∧ ∃ t, step started = .next t :=
  ⟨by unfold WiresInOrder; decide, _, rfl⟩
theorem witness_oneCompletion :
    BusContract ending ∧ HostCode ending ∧ OneCompletionEach ending ∧ ∃ t, step ending = .next t :=
  ⟨.inl ⟨rfl, rfl⟩, ⟨rfl, rfl, rfl⟩, ⟨by decide, by decide⟩, _, rfl⟩

/-- With CB.NOP, with CB.RELEASE, and with a routine of the host's own table. -/
theorem witness_transactionCompletes :
    (ContractMet host prefixOnly ∧ prefixOnly.cb = 1 ∧ ∃ u, exec (.submit prefixOnly) host = .next u) ∧
      (ContractMet host { prefixOnly with cb := 2 } ∧
        ∃ u, exec (.submit { prefixOnly with cb := 2 }) host = .next u) ∧
      (ContractMet host v2 ∧ 5 ≤ v2.cb ∧ ∃ u, exec (.submit v2) host = .next u) ∧
      host.state = .idle ∧ host.ctx = .main ∧ host.evPending = false ∧ host.cmdq = [] ∧ host.todo = [] :=
  ⟨⟨prefixOnly_met rfl, rfl, _, rfl⟩,
    ⟨⟨runMet_of (by decide), .inl ⟨rfl, rfl⟩, by decide, by decide, .inr (.inl rfl)⟩, _, rfl⟩,
    ⟨v2_met rfl rfl, by decide, _, rfl⟩, rfl, rfl, rfl, rfl, rfl⟩
theorem witness_eventIsTwoSteps :
    started.ctx = .main ∧ started.main = [] ∧ started.evPending = false ∧
      started.cmdq = [{ word := startWord, stalls := false }] ∧ Owing startWord ∧ ∃ t, step started = .next t :=
  ⟨rfl, rfl, rfl, rfl, .inl rfl, _, rfl⟩
/-- The display of program P3, and a one-page display at the top of the address space. -/
theorem witness_refresh :
    (∀ r : Display, r = smallDisplay ∨ r = topDisplay →
      1 ≤ r.pageCount ∧ 1 ≤ r.width ∧ FitsHere (withDisplay r) 0x50 ∧
        (∀ p, p < r.pageCount → RunMet Params.reset (r.fb + p * r.width) r.width) ∧
        (withDisplay r).display 0x50 = r ∧ ∃ u, exec (.refreshStart 0x50) (withDisplay r) = .next u) ∧
      host.state = .idle ∧ host.ctx = .main ∧ host.evPending = false ∧ host.cmdq = [] ∧ host.todo = [] ∧
      RunMet Params.reset Params.reset.selBuf 6 ∧ RunMet Params.reset Params.reset.dataPfx 1 := by
  refine ⟨?_, rfl, rfl, rfl, rfl, rfl, runMet_of (by decide), runMet_of (by decide)⟩
  rintro r (rfl | rfl)
  · refine ⟨by decide, by decide, by unfold FitsHere; decide, fun p hp => runMet_of ?_, rfl, _, rfl⟩
    revert p
    decide
  · refine ⟨by decide, by decide, by unfold FitsHere; decide, fun p hp => runMet_of ?_, rfl, _, rfl⟩
    revert p
    decide

end Sys2Proof.Tests
end

section
/-!
PROOFS. What no operation writes: the implementation parameters (rule R6) and the host's callback table
(rule R150).
-/

namespace Sys2Proof.Machine

/-- A host operation keeps the parameters and the callback table. -/
theorem HostEffect.par_routines {s t : State} (h : HostEffect s t) : t.par = s.par ∧ t.routines = s.routines :=
  ⟨h.par, h.routines⟩

/-- A client callback's body is a host operation, and a host routine's start writes the work list alone. -/
theorem callRoutine_par_routines {cb : CbId} {arg : Arg} {s t : State} (h : callRoutine cb arg s = .next t) :
    t.par = s.par ∧ t.routines = s.routines := by
  obtain ⟨-, effect | ⟨body, -, rfl⟩⟩ := callRoutine_next h
  · exact effect.par_routines
  · exact ⟨rfl, rfl⟩

/-- An invocation records `C` and enters Handler before its routine starts (rule R150). -/
theorem invoke_par_routines {cb : CbId} {arg : Arg} {s t : State} (h : invoke cb arg s = .next t) :
    t.par = s.par ∧ t.routines = s.routines :=
  (callRoutine_par_routines h :)

/-- The end of a transaction is STOP and the return to Idle before the invocation (rule R122). -/
theorem finishTransaction_par_routines {s t : State} (h : finishTransaction s = .next t) :
    t.par = s.par ∧ t.routines = s.routines :=
  (invoke_par_routines h :)

/-- Settles O29, by cases on the operation: the ends of a transaction and COMPLETE start a routine, the
byte steps and the bus commands write other fields, and all others have the effects of a host operation. -/
theorem parametersAndCallbackTableAreFixed : Obligations.ParametersAndCallbackTableAreFixed := by
  unfold Obligations.ParametersAndCallbackTableAreFixed
  intro i s t h
  cases i with
  | evIdle | evStop => exact finishTransaction_par_routines h
  | complete cb arg => exact invoke_par_routines h
  | evSlaveAddress | evWritePrefix | evWriteByte | busNone | busStart | busWrite | busStop =>
    injection h with h
    subst h
    exact ⟨rfl, rfl⟩
  | cbNop | cbRelease | cbSelectDone | cbXferDone => exact (exec_callback_effect rfl (by simp) h).par_routines
  | submit => exact (exec_line_effect (.inl rfl) h).par_routines
  | submitHost | lockAcquire | lockTry | lockRelease | displayInit | refreshStart | brightnessSet =>
    exact (exec_line_effect (.inr (.inl rfl)) h).par_routines
  | submitSpin | submitCmd | submitPage => exact (exec_line_effect (.inr (.inr rfl)) h).par_routines

end Sys2Proof.Machine
end

section
/-!
PROOFS. What the decoder promises of an operation: its format is its word's (rules R70, R82), and a HOST line
names a display by a reference of `ARG_W` bits (rules R83, R87).
-/

namespace Sys2Proof

/-- The operations a HOST line spells (rule R83), the display reference within its width. -/
def Instr.FitsHostLine (W : Widths) : Instr → Prop
  | .submitHost _ => True
  | .lockAcquire d | .lockTry d | .lockRelease d | .displayInit d _ _ _ _ _ | .refreshStart d
  | .brightnessSet d _ => d < 2 ^ W.argW
  | _ => False

theorem checked_eq_ok {b : Bool} {i j : Instr} : checked b i = .ok j ↔ b = true ∧ i = j := by
  cases b <;> simp [checked]

theorem map_decodeSub_eq_ok {W : Widths} {w : Nat} {f : Submission → Instr} {i : Instr} :
    (decodeSub W w).map f = .ok i ↔ ∃ q, decodeSub W w = .ok q ∧ f q = i := by
  cases decodeSub W w <;> simp [Except.map]

theorem decodeSt_format {w : BitVec 3} {i : Instr} (h : decodeSt w = .ok i) : i.format = .st := by
  unfold decodeSt at h
  split_ifs at h <;> injection h with h <;> subst h <;> rfl

theorem decodeCmd_format (w : BitVec 10) : (decodeCmd w).format = .cmd := by
  unfold decodeCmd
  split_ifs <;> rfl

theorem completionOf_format (cb : CbId) (arg : Arg) : (completionOf cb arg).format = .cpl := by
  unfold completionOf
  split_ifs <;> rfl

theorem decodeCpl_format {W : Widths} {w : Nat} {i : Instr} (h : decodeCpl W w = .ok i) : i.format = .cpl := by
  unfold decodeCpl at h
  split at h
  · injection h with h
    exact h ▸ completionOf_format _ _
  · cases h

/-- Of the ids of rule R83 each gives one operation, whose display reference was checked. -/
theorem decodeHost_fits {W : Widths} {id : BitVec 4} {ops : List Nat} {i : Instr}
    (h : decodeHost W id ops = .ok i) : i.FitsHostLine W := by
  unfold decodeHost at h
  by_cases submits : id = 0#4
  · rw [if_pos submits] at h
    split at h
    · obtain ⟨q, -, rfl⟩ := map_decodeSub_eq_ok.1 h
      trivial
    · cases h
  · rw [if_neg submits] at h
    repeat' split at h
    all_goals
      simp only [checked_eq_ok, reduceCtorEq, fits, Bool.and_eq_true, decide_eq_true_eq] at h
    all_goals
      obtain ⟨bound, rfl⟩ := h
      simp only [Instr.FitsHostLine, bound]

theorem Instr.FitsHostLine.format_eq {W : Widths} {i : Instr} (h : i.FitsHostLine W) : i.format = .host := by
  cases i with
  | submitHost | lockAcquire | lockTry | lockRelease | displayInit | refreshStart | brightnessSet => rfl
  | _ => exact h.elim

theorem decodePseudo_format {W : Widths} {k : BitVec 2} {ops : List Nat} {i : Instr}
    (h : decodePseudo W k ops = .ok i) : i.format = .pseudo := by
  unfold decodePseudo at h
  repeat' split at h
  all_goals simp only [checked_eq_ok, reduceCtorEq] at h
  all_goals exact h.2 ▸ rfl

/-- A decoded operation has its word's format (rule R82). -/
theorem decode_format {W : Widths} {w : PortWord} {i : Instr} (h : decode W w = .ok i) : i.format = w.format := by
  unfold decode at h
  cases w with
  | st w => exact decodeSt_format h
  | sub w =>
    obtain ⟨q, -, rfl⟩ := map_decodeSub_eq_ok.1 h
    rfl
  | cmd w =>
    injection h with h
    exact h ▸ decodeCmd_format w
  | cpl w => exact decodeCpl_format h
  | host id ops => exact (decodeHost_fits h).format_eq
  | pseudo k ops => exact decodePseudo_format h

/-- A decoded operation of format HOST names a display of `ARG_W` bits. -/
theorem decode_fitsHostLine {W : Widths} {w : PortWord} {i : Instr} (h : decode W w = .ok i)
    (hf : i.format = .host) : i.FitsHostLine W := by
  have hw := (decode_format h).symm.trans hf
  cases w with
  | host id ops => exact decodeHost_fits h
  | st | sub | cmd | cpl | pseudo => cases hw

end Sys2Proof
end

section
/-!
PROOFS. What a line of host code, a bus command, a completion invocation and a step can do, said once for the
invariants of the step.
-/

namespace Sys2Proof.Machine

/-- In a handler window a host operation leaves main-line's lines alone. -/
theorem HostEffect.main_of_handler {s t : State} (h : HostEffect s t) (hc : s.ctx = .handler) : t.main = s.main := by
  obtain ⟨hm, -⟩ | ⟨w, -, ⟨hmain, -, -⟩ | ⟨-, hm, -⟩⟩ := h.lines
  · exact hm
  · rw [hc] at hmain
    cases hmain
  · exact hm

/-- In context Main a host operation leaves the callback's lines alone. -/
theorem HostEffect.todo_of_main {s t : State} (h : HostEffect s t) (hc : s.ctx = .main) : t.todo = s.todo := by
  obtain ⟨-, ht⟩ | ⟨w, -, ⟨-, -, ht⟩ | ⟨hhandler, -, -⟩⟩ := h.lines
  · exact ht
  · exact ht
  · rw [hc] at hhandler
    cases hhandler

/-- A completion invocation runs in handler context and leaves main-line and the event alone (rule R150). -/
theorem invoke_frame {cb : CbId} {arg : Arg} {s t : State} (h : invoke cb arg s = .next t) :
    t.ctx = .handler ∧ t.main = s.main ∧ t.evPending = s.evPending := by
  obtain ⟨-, effect | ⟨body, -, rfl⟩⟩ := callRoutine_next h
  · exact ⟨effect.ctx, effect.main_of_handler rfl, effect.ev⟩
  · exact ⟨rfl, rfl, rfl⟩

/-- A bus command does nothing or is performed, with or without an event (rules R55 to R57). -/
theorem exec_decodeCmd_next {w : BitVec 10} {s t : State} (h : exec (decodeCmd w) s = .next t) :
    t = s ∨ ∃ y, t = s.performed y ∨ t = (s.performed y).raiseEvent := by
  unfold decodeCmd at h
  split_ifs at h <;> injection h with h
  · exact .inl h.symm
  · exact .inr ⟨_, .inr h.symm⟩
  · exact .inr ⟨_, .inr h.symm⟩
  · exact .inr ⟨_, .inl h.symm⟩

/-- A line of host code has the effects of a host operation, or it is a completion word in a handler window
(rule R31). -/
theorem runLine_effect {a : HostAct} {s t : State} (h : runLine a s = .next t) :
    HostEffect s t ∨ (s.ctx = .handler ∧ ∃ cb arg, invoke cb arg s = .next t) := by
  obtain effect | ⟨w, i, rfl, carried, decoded, ran⟩ := runLine_next h
  · exact .inl effect
  · have hf := decode_format decoded
    unfold portCarries at carried
    cases hw : w.format with
    | sub => exact .inl (exec_line_effect (.inl (hf.trans hw)) ran)
    | host => exact .inl (exec_line_effect (.inr (.inl (hf.trans hw))) ran)
    | pseudo => exact .inl (exec_line_effect (.inr (.inr (hf.trans hw))) ran)
    | cpl =>
      by_cases completes : ∃ cb arg, i = .complete cb arg
      · obtain ⟨cb, arg, rfl⟩ := completes
        exact .inr ⟨by simpa [hw] using carried, cb, arg, ran⟩
      · exact .inl (exec_callback_effect (hf.trans hw) (fun cb arg hi => completes ⟨cb, arg, hi⟩) ran)
    | st | cmd => simp [hw] at carried

/-- The moves of rule R30 from one state to the next: the bus engine's oldest command; the event step that
`state` selects, up to the return; the return of a callback without lines, or its next line; main-line's next
line, or the lines of the procedure it calls put in its place. -/
inductive Moves (s : State) : State → Prop
  | engine {c : Command} {rest : List Command} {t : State} (queued : s.cmdq = c :: rest) (live : c.stalls = false)
      (ran : exec (decodeCmd c.word) { s with cmdq := rest } = .next t) : Moves s t
  | handler {t : State} (ctx : s.ctx = .main) (pending : s.evPending = true)
      (ran : exec (eventInstr s.state) (takeEvent s) = .next t) : Moves s (closeWindow t)
  | callbackReturn (ctx : s.ctx = .handler) (lines : s.todo = []) : Moves s (handlerReturn s)
  | callbackLine {a : HostAct} {rest : List HostAct} {t : State} (ctx : s.ctx = .handler) (lines : s.todo = a :: rest)
      (ran : runLine a { s with todo := rest } = .next t) : Moves s (closeWindow t)
  | mainLine {a : HostAct} {rest : List HostAct} {t : State} (ctx : s.ctx = .main) (lines : s.main = a :: rest)
      (ran : runLine a { s with main := rest } = .next t) : Moves s t
  | procedure {a : HostAct} {rest lines : List HostAct} (ctx : s.ctx = .main) (next : s.main = a :: rest)
      (interruptible : preemptible s = true) (calls : procedureLines s.par a = some lines) :
      Moves s { s with main := lines ++ rest }

/-- When an agent can move (rules R23, R211, R212). -/
theorem mem_ready_iff (a : Agent) (s : State) :
    a ∈ ready s ↔
      match a with
      | .engine => engineReady s = true
      | .handler => s.ctx = .main ∧ s.evPending = true
      | .callback => s.ctx = .handler
      | .mainline => s.ctx = .main ∧ s.main ≠ [] := by
  unfold ready
  cases s.ctx <;> cases a <;> simp

theorem engineReady_command {s : State} (h : engineReady s = true) :
    ∃ c rest, s.cmdq = c :: rest ∧ c.stalls = false := by
  unfold engineReady at h
  split at h
  · cases h
  · next c rest queued => exact ⟨c, rest, queued, by simpa using h⟩

/-- A ready agent's move is one of `Moves`. -/
theorem move_next {a : Agent} {s t : State} (ha : a ∈ ready s) (h : move a s = .next t) : Moves s t := by
  rw [mem_ready_iff] at ha
  cases a with
  | engine =>
    obtain ⟨c, rest, queued, live⟩ := engineReady_command ha
    simp only [move, runEngine, queued] at h
    exact .engine queued live h
  | handler =>
    obtain ⟨ctx, pending⟩ := ha
    rw [move, runHandler_eq] at h
    obtain ⟨u, ran, rfl⟩ := onNext_next h
    exact .handler ctx pending ran
  | callback =>
    simp only [move, runCallback] at h
    split at h
    · next lines =>
      injection h with h
      exact h ▸ .callbackReturn ha lines
    · next a rest lines =>
      obtain ⟨u, ran, rfl⟩ := onNext_next h
      exact .callbackLine ha lines ran
  | mainline =>
    obtain ⟨ctx, left⟩ := ha
    obtain ⟨none, -⟩ | ⟨a, rest, next, ran | ⟨lines, interruptible, calls, rfl⟩⟩ := runMainline_next h
    · exact absurd none left
    · exact .mainLine ctx next ran
    · exact .procedure ctx next interruptible calls

/-- A step leaves the state as it is or is one move, after a free value was read where there was a choice. -/
theorem step_next {s t : State} (h : step s = .next t) : t = s ∨ Moves s t ∨ Moves s.bump t := by
  obtain ⟨-, stands⟩ | ⟨a, ha, one | chosen⟩ := step_cases s
  · rw [stands] at h
    injection h with h
    exact .inl h.symm
  · exact .inr (.inl (move_next ha (one ▸ h)))
  · exact .inr (.inr (move_next (s := s.bump) ha (chosen ▸ h)))

/-- What every move keeps, and the reading of a free value keeps, every step keeps. -/
theorem step_keeps {P : State → Prop} (free : ∀ s : State, P s → P s.bump)
    (moves : ∀ {s t : State}, P s → Moves s t → P t) {s t : State} (hs : P s) (h : step s = .next t) : P t := by
  obtain rfl | move | move := step_next h
  · exact hs
  · exact moves hs move
  · exact moves (free s hs) move

end Sys2Proof.Machine
end

section
/-!
PROOFS. `state` and the request registers change in event steps and by accepted submissions alone (rule R27),
and every step keeps the relations of rule R34 and the widths of rule R28.
-/

namespace Sys2Proof.Machine

/-! ### The bus side of an operation (rule R27) -/

/-- A completion invocation has the bus side of a host operation: its routine may submit. -/
theorem invoke_busEffect {cb : CbId} {arg : Arg} {s t : State} (h : invoke cb arg s = .next t) : BusEffect s t := by
  obtain ⟨-, effect | ⟨body, -, rfl⟩⟩ := callRoutine_next h
  · exact effect.bus
  · exact .refl s

/-- Outside the event steps an operation changes nothing on the bus side but by one accepted submission. -/
theorem exec_busEffect {i : Instr} (hf : i.format ≠ .st) {s t : State} (h : exec i s = .next t) : BusEffect s t := by
  cases i with
  | evIdle | evStop | evSlaveAddress | evWritePrefix | evWriteByte => exact absurd rfl hf
  | busNone | busStart | busWrite | busStop =>
    injection h with h
    subst h
    exact .refl s
  | complete cb arg => exact invoke_busEffect h
  | cbNop | cbRelease | cbSelectDone | cbXferDone => exact (exec_callback_effect rfl (by simp) h).bus
  | submit => exact (exec_line_effect (.inl rfl) h).bus
  | submitHost | lockAcquire | lockTry | lockRelease | displayInit | refreshStart | brightnessSet =>
    exact (exec_line_effect (.inr (.inl rfl)) h).bus
  | submitSpin | submitCmd | submitPage => exact (exec_line_effect (.inr (.inr rfl)) h).bus

/-- A host line has the parameters and the bus side of a host operation. -/
theorem runLine_busEffect {a : HostAct} {s t : State} (h : runLine a s = .next t) :
    t.par = s.par ∧ BusEffect s t := by
  obtain effect | ⟨-, cb, arg, ran⟩ := runLine_effect h
  · exact ⟨effect.par, effect.bus⟩
  · exact ⟨(invoke_par_routines ran).1, invoke_busEffect ran⟩

/-- The operations that neither submit nor run an event step: the bus commands, the lock operations, CB.NOP and
CB.RELEASE. -/
theorem exec_state_req_of_no_submission {i : Instr}
    (hi : i.format = .cmd ∨
      ∃ d, i = .lockAcquire d ∨ i = .lockTry d ∨ i = .lockRelease d ∨ i = .cbNop d ∨ i = .cbRelease d)
    {s t : State} (h : exec i s = .next t) : t.state = s.state ∧ t.req = s.req := by
  obtain command | ⟨d, rfl | rfl | rfl | rfl | rfl⟩ := hi
  · cases i with
    | busNone | busStart | busWrite | busStop =>
      injection h with h
      subst h
      exact ⟨rfl, rfl⟩
    | _ => cases command
  · simp only [exec, execLockAcquire] at h
    split at h <;> injection h with h <;> subst h
    · exact ⟨State.again_state _ _, State.again_req _ _⟩
    · exact ⟨rfl, rfl⟩
  · simp only [exec, execLockTry] at h
    split at h <;> injection h with h <;> subst h <;> exact ⟨rfl, rfl⟩
  all_goals
    injection h with h
    subst h
    exact ⟨rfl, rfl⟩

/-- Settles O27: outside the event steps an operation has the bus side of a host operation, and those that submit
nothing write neither `state` nor a request register. -/
theorem stateChangesOnlyInEventStepsOrAcceptance : Obligations.StateChangesOnlyInEventStepsOrAcceptance := by
  unfold Obligations.StateChangesOnlyInEventStepsOrAcceptance
  intro i s t hf h
  refine ⟨?_, fun hi => exec_state_req_of_no_submission hi h⟩
  obtain ⟨hstate, hreq, -, -⟩ | ⟨hidle, hstate, -, -, -⟩ := exec_busEffect hf h
  · exact .inl ⟨hstate, hreq⟩
  · exact .inr ⟨hidle, hstate⟩

/-! ### The counts and the cursors (rules R34, R48, R130) -/

/-- The table of rule R34 between `state` and the counts, the last clause of `CountsFit`. -/
def CountsTable (r : Req) : BusState → Prop
  | .slaveAddress => True
  | .writePrefix => 1 ≤ r.prefixRem
  | .writeByte => r.prefixRem = 0 ∧ 1 ≤ r.dataRem
  | .stop | .idle => r.prefixRem = 0 ∧ r.dataRem = 0

theorem countsFit_iff (s : State) :
    CountsFit s ↔
      RegistersFit s ∧ s.req.prefixPtr + s.req.prefixRem ≤ 2 ^ s.par.widths.ptrW ∧
        s.req.dataPtr + s.req.dataRem ≤ 2 ^ s.par.widths.ptrW ∧ CountsTable s.req s.state := by
  unfold CountsFit
  cases s.state <;> rfl

theorem countsTable_afterAddress (r : Req) : CountsTable r (afterAddress r) := by
  unfold afterAddress
  split_ifs with empty noPrefix
  · exact empty
  · exact ⟨noPrefix, Nat.one_le_iff_ne_zero.2 fun noData => empty ⟨noPrefix, noData⟩⟩
  · exact Nat.one_le_iff_ne_zero.2 noPrefix

theorem countsTable_afterPrefix (r : Req) : CountsTable r (afterPrefix r) := by
  unfold afterPrefix
  split_ifs with last hasData
  · exact ⟨last, Nat.one_le_iff_ne_zero.2 hasData⟩
  · exact ⟨last, not_not.1 hasData⟩
  · exact Nat.one_le_iff_ne_zero.2 last

theorem countsTable_afterData {r : Req} (noPrefix : r.prefixRem = 0) : CountsTable r (afterData r) := by
  unfold afterData
  split_ifs with last
  · exact ⟨noPrefix, last⟩
  · exact ⟨noPrefix, Nat.one_le_iff_ne_zero.2 last⟩

/-- The relations look at the parameters, `state` and the request registers alone. -/
theorem CountsFit.congr {s t : State} (h : CountsFit s) (hp : t.par = s.par) (hs : t.state = s.state)
    (hr : t.req = s.req) : CountsFit t := by
  unfold CountsFit RegistersFit at h ⊢
  rwa [hp, hs, hr]

/-- An admitted submission loads registers that fit. -/
theorem countsFit_of_accepted {s t : State} {q : Submission} (hq : submitFlaw s q = none) (hp : t.par = s.par)
    (hs : t.state = .slaveAddress) (hr : t.req = reqOf q) : CountsFit t := by
  obtain ⟨prefixRun, dataRun, operands, -, -⟩ := (submitFlaw_none_iff s q).1 hq
  obtain ⟨prefixEnd, prefixPtr⟩ := runFlaw_bound prefixRun
  obtain ⟨dataEnd, dataPtr⟩ := runFlaw_bound dataRun
  obtain ⟨prefixLen, dataLen, cb, arg⟩ := (Submission.fits_iff _ q).1 operands
  unfold CountsFit RegistersFit
  rw [hp, hs, hr]
  exact ⟨⟨prefixPtr, prefixLen, dataPtr, dataLen, cb, arg⟩, prefixEnd, dataEnd, trivial⟩

theorem CountsFit.of_busEffect {s t : State} (h : CountsFit s) (hp : t.par = s.par) (hb : BusEffect s t) :
    CountsFit t := by
  obtain ⟨hs, hr, -, -⟩ | ⟨-, hs, -, -, q, hq, hr⟩ := hb
  · exact h.congr hp hs hr
  · exact countsFit_of_accepted hq hp hs hr

/-- The decrement of a count that is not zero does not wrap. -/
theorem subMod_one_of_pos {n x : Nat} (hx : x < 2 ^ n) (hpos : 1 ≤ x) : subMod n x 1 = x - 1 := by
  rw [subMod_one, show x + (2 ^ n - 1) = x - 1 + 2 ^ n by omega, Nat.add_mod_right, Nat.mod_eq_of_lt (by omega)]

/-- A cursor stepped with its count, which is not zero, stays within its bound (rules R48, R130). -/
theorem addMod_add_subMod_le {n k m ptr rem : Nat} (hrem : rem < 2 ^ k) (hpos : 1 ≤ rem) (hb : ptr + rem ≤ m) :
    addMod n ptr 1 + subMod k rem 1 ≤ m := by
  have step : addMod n ptr 1 ≤ ptr + 1 := Nat.mod_le _ _
  rw [subMod_one_of_pos hrem hpos]
  omega

theorem subMod_lt (n x y : Nat) : subMod n x y < 2 ^ n :=
  Nat.mod_lt _ (Nat.two_pow_pos n)

/-- The end of a transaction is reached with both counts 0, and its callback may submit the next one. -/
theorem finishTransaction_countsFit {s t : State} (ran : finishTransaction s = .next t) (h : CountsFit s)
    (spent : s.req.prefixRem = 0 ∧ s.req.dataRem = 0) : CountsFit t := by
  obtain ⟨registers, prefixEnd, dataEnd, -⟩ := h
  have idle : CountsFit (s.busStop.setPhase .idle) := ⟨registers, prefixEnd, dataEnd, spent⟩
  exact idle.of_busEffect (invoke_par_routines ran).1 (invoke_busEffect ran)

theorem execEvSlaveAddress_countsFit {s t : State} (ran : execEvSlaveAddress s = .next t) (h : CountsFit s) :
    CountsFit t := by
  obtain ⟨registers, prefixEnd, dataEnd, -⟩ := h
  injection ran with ran
  subst ran
  exact (countsFit_iff _).2 ⟨registers, prefixEnd, dataEnd, countsTable_afterAddress _⟩

theorem execEvWritePrefix_countsFit {s t : State} (ran : execEvWritePrefix s = .next t) (h : CountsFit s)
    (left : 1 ≤ s.req.prefixRem) : CountsFit t := by
  obtain ⟨⟨-, prefixRem, dataPtr, dataRem, cb, arg⟩, prefixEnd, dataEnd, -⟩ := h
  injection ran with ran
  subst ran
  exact (countsFit_iff _).2
    ⟨⟨addMod_lt _ _ _, subMod_lt _ _ _, dataPtr, dataRem, cb, arg⟩,
      addMod_add_subMod_le prefixRem left prefixEnd, dataEnd, countsTable_afterPrefix _⟩

theorem execEvWriteByte_countsFit {s t : State} (ran : execEvWriteByte s = .next t) (h : CountsFit s)
    (noPrefix : s.req.prefixRem = 0) (left : 1 ≤ s.req.dataRem) : CountsFit t := by
  obtain ⟨⟨prefixPtr, prefixRem, -, dataRem, cb, arg⟩, prefixEnd, dataEnd, -⟩ := h
  injection ran with ran
  subst ran
  exact (countsFit_iff _).2
    ⟨⟨prefixPtr, prefixRem, addMod_lt _ _ _, subMod_lt _ _ _, cb, arg⟩, prefixEnd,
      addMod_add_subMod_le dataRem left dataEnd, countsTable_afterData noPrefix⟩

/-- The event step that `state` selects moves along the table of rule R34. -/
theorem eventStep_countsFit {s t : State} (ran : exec (eventInstr s.state) s = .next t) (h : CountsFit s) :
    CountsFit t := by
  obtain ⟨-, -, -, table⟩ := (countsFit_iff s).1 h
  cases hs : s.state with
  | idle | stop =>
    rw [hs] at table ran
    exact finishTransaction_countsFit ran h table
  | slaveAddress =>
    rw [hs] at ran
    exact execEvSlaveAddress_countsFit ran h
  | writePrefix =>
    rw [hs] at table ran
    exact execEvWritePrefix_countsFit ran h table
  | writeByte =>
    rw [hs] at table ran
    exact execEvWriteByte_countsFit ran h table.1 table.2

theorem runLine_countsFit {a : HostAct} {s t : State} (ran : runLine a s = .next t) (h : CountsFit s) :
    CountsFit t := by
  obtain ⟨hp, hb⟩ := runLine_busEffect ran
  exact h.of_busEffect hp hb

theorem CountsFit.closeWindow {s : State} (h : CountsFit s) : CountsFit (closeWindow s) :=
  h.congr (closeWindow_par s) (closeWindow_state s) (closeWindow_req s)

theorem CountsFit.moves {s t : State} (h : CountsFit s) (move : Moves s t) : CountsFit t := by
  cases move with
  | engine _ _ ran => obtain rfl | ⟨y, rfl | rfl⟩ := exec_decodeCmd_next ran <;> exact h
  | handler _ _ ran => exact (eventStep_countsFit (s := takeEvent s) ran h).closeWindow
  | callbackReturn => exact h
  | callbackLine _ _ ran => exact (runLine_countsFit ran h).closeWindow
  | mainLine _ _ ran => exact runLine_countsFit ran h
  | procedure => exact h

/-! ### The widths of the display records (rule R28) -/

/-- The widths look at the records and the parameters alone. -/
theorem RecordsFit.congr {s t : State} (h : RecordsFit s) (hd : t.displays = s.displays) (hp : t.par = s.par) :
    RecordsFit t := by
  unfold RecordsFit at h ⊢
  rwa [hd, hp]

theorem RecordsFit.fb_lt {s : State} (h : RecordsFit s) (d : Arg) : (s.display d).fb < 2 ^ s.par.widths.ptrW := by
  obtain unlisted | ⟨-, bound⟩ := h.display d
  · rw [unlisted]
    exact Nat.two_pow_pos _
  · exact bound

/-- A record written under a reference that fits. -/
theorem RecordsFit.setDisplay_of_lt {s : State} (h : RecordsFit s) {d : Arg} {r : Display}
    (hd : d < 2 ^ s.par.widths.argW) (hr : r.fb < 2 ^ s.par.widths.ptrW) : RecordsFit (s.setDisplay d r) :=
  h.setDisplay fun _ => ⟨hd, hr⟩

/-- A change that lists no new record: an unfilled one stays as it was, and the frame buffer is not moved. -/
theorem RecordsFit.setDisplay_of_reset {s : State} (h : RecordsFit s) {d : Arg} {r : Display}
    (hreset : s.display d = Display.reset → r = Display.reset) (hfb : r.fb = (s.display d).fb) :
    RecordsFit (s.setDisplay d r) :=
  h.setDisplay fun listed => by
    obtain unlisted | bounds := h.display d
    · exact absurd (hreset unlisted) listed
    · rwa [hfb]

theorem RecordsFit.lockRelease {s : State} (h : RecordsFit s) (d : Arg) : RecordsFit (lockRelease d s) :=
  h.setDisplay_of_reset (fun unlisted => by rw [unlisted]; rfl) rfl

theorem RecordsFit.setCursor_zero {s : State} (h : RecordsFit s) (d : Arg) : RecordsFit (setCursor d 0 s) :=
  h.setDisplay_of_reset (fun unlisted => by rw [unlisted]; rfl) rfl

theorem RecordsFit.setCursor {s : State} (h : RecordsFit s) {d : Arg} (hd : d < 2 ^ s.par.widths.argW) (n : Nat) :
    RecordsFit (setCursor d n s) :=
  h.setDisplay_of_lt hd (h.fb_lt d)

theorem RecordsFit.claim {s : State} (h : RecordsFit s) {d : Arg} (hd : d < 2 ^ s.par.widths.argW) :
    RecordsFit (claim d s) :=
  h.setDisplay_of_lt hd (h.fb_lt d)

theorem RecordsFit.update {s : State} (h : RecordsFit s) {d : Arg} {u : DisplayUpdate}
    (hd : d < 2 ^ s.par.widths.argW) (hu : u.fits s.par.widths = true) : RecordsFit (s.update d u) := by
  refine h.setDisplay_of_lt hd ?_
  cases u with
  | fb a => exact of_decide_eq_true hu
  | width | height | pageCount | busAddr | cursor | advanceCursor | lock => exact h.fb_lt d

theorem RecordsFit.again {s : State} (h : RecordsFit s) (i : Instr) : RecordsFit (s.again i) :=
  h.congr (State.again_displays s i) (State.again_par s i)

theorem RecordsFit.closeWindow {s : State} (h : RecordsFit s) : RecordsFit (closeWindow s) :=
  h.congr (closeWindow_displays s) (closeWindow_par s)

/-- An admitted frame buffer lies below the top of the address space (rule R175). -/
theorem displayAdmitted_fb_lt {p : Params} {width height fb : Nat} (h : displayAdmitted p width height fb = true) :
    fb < 2 ^ p.widths.ptrW := by
  obtain ⟨-, low, -, wide, top⟩ := of_decide_eq_true h
  have page : 0 < width * (height / 8) := Nat.mul_pos wide (by omega)
  omega

theorem spin_recordsFit {q : Submission} {s t : State} (ran : spin q s = .next t) (h : RecordsFit s) :
    RecordsFit t := by
  obtain ⟨-, ⟨-, rfl⟩ | ⟨-, rfl⟩⟩ := submitOr_next ran
  · exact h
  · exact h.again _

theorem submitOnce_recordsFit {self : Instr} {q : Submission} {s t : State} (ran : submitOnce self q s = .next t)
    (h : RecordsFit s) : RecordsFit t := by
  obtain ⟨-, ⟨-, rfl⟩ | ⟨-, rfl⟩⟩ := submitOr_next ran
  · exact h
  · split
    · exact h.again self
    · exact h

theorem initSubmit_recordsFit {d : Arg} {busAddr : BitVec 8} {s t : State} (ran : initSubmit d busAddr s = .next t)
    (h : RecordsFit s) : RecordsFit t := by
  obtain ⟨-, ⟨-, rfl⟩ | ⟨-, rfl⟩⟩ := submitOr_next ran
  · exact h
  · exact h

theorem selectPage_recordsFit {d : Arg} {s t : State} (ran : selectPage d s = .next t) (h : RecordsFit s) :
    RecordsFit t :=
  spin_recordsFit ran h

/-- The callback argument of a submission that is not refused has `ARG_W` bits (rules R73, R105). -/
theorem spin_arg_lt {q : Submission} {s t : State} (ran : spin q s = .next t) : q.arg < 2 ^ s.par.widths.argW := by
  obtain ⟨admitted, -⟩ := submitOr_next ran
  obtain ⟨-, -, operands, -, -⟩ := (submitFlaw_none_iff s q).1 admitted
  obtain ⟨-, -, -, arg⟩ := (Submission.fits_iff _ q).1 operands
  exact arg

/-- The select-page submission carries the display's reference as its callback argument (rule R176). -/
theorem selectPage_arg_lt {d : Arg} {s t : State} (ran : selectPage d s = .next t) : d < 2 ^ s.par.widths.argW :=
  spin_arg_lt ran

theorem display_setCursor (d : Arg) (n : Nat) (s : State) :
    (setCursor d n s).display d = { s.display d with cursor := n } :=
  Displays.get_put_same _ d _

/-- A reference that does not fit names an unfilled record, whose page count is 0: CB.XFER_DONE goes on to select
a page for it, which is refused. -/
theorem xferDone_arg_lt {d : Arg} {s t : State} (ran : xferDone d s = .next t) (h : RecordsFit s) :
    d < 2 ^ s.par.widths.argW := by
  obtain unlisted | ⟨hd, -⟩ := h.display d
  · rw [xferDone, nextPage, display_setCursor, unlisted] at ran
    exact selectPage_arg_lt (s := setCursor d _ s) ran
  · exact hd

theorem xferDone_recordsFit {d : Arg} {s t : State} (ran : xferDone d s = .next t) (h : RecordsFit s) :
    RecordsFit t := by
  have advanced := h.setCursor (xferDone_arg_lt ran h) ((s.display d).cursor + 1)
  rw [xferDone, nextPage] at ran
  split at ran
  · injection ran with ran
    exact ran ▸ advanced.lockRelease d
  · exact selectPage_recordsFit ran advanced

theorem callRoutine_recordsFit {cb : CbId} {arg : Arg} {s t : State} (ran : callRoutine cb arg s = .next t)
    (h : RecordsFit s) : RecordsFit t := by
  unfold callRoutine at ran
  split_ifs at ran
  · injection ran with ran
    exact ran ▸ h
  · injection ran with ran
    exact ran ▸ h.lockRelease arg
  · exact spin_recordsFit ran h
  · exact xferDone_recordsFit ran h
  · split at ran
    · cases ran
    · injection ran with ran
      subst ran
      exact h

theorem invoke_recordsFit {cb : CbId} {arg : Arg} {s t : State} (ran : invoke cb arg s = .next t)
    (h : RecordsFit s) : RecordsFit t :=
  callRoutine_recordsFit ran h

theorem finishTransaction_recordsFit {s t : State} (ran : finishTransaction s = .next t) (h : RecordsFit s) :
    RecordsFit t :=
  invoke_recordsFit ran h

/-- An operation keeps the widths if the display reference of a HOST line has its width, as the decoder sees to. -/
theorem exec_recordsFit {i : Instr} {s t : State} (ran : exec i s = .next t)
    (hi : i.format = .host → i.FitsHostLine s.par.widths) (h : RecordsFit s) : RecordsFit t := by
  cases i with
  | evIdle | evStop => exact finishTransaction_recordsFit ran h
  | evSlaveAddress | evWritePrefix | evWriteByte | busNone | busStart | busWrite | busStop | cbNop =>
    injection ran with ran
    subst ran
    exact h
  | complete cb arg => exact invoke_recordsFit ran h
  | cbRelease d | lockRelease d =>
    injection ran with ran
    exact ran ▸ h.lockRelease d
  | cbSelectDone | submitSpin | submitCmd | submitPage => exact spin_recordsFit ran h
  | cbXferDone d => exact xferDone_recordsFit ran h
  | submit | submitHost => exact submitOnce_recordsFit ran h
  | lockAcquire d =>
    simp only [exec, execLockAcquire] at ran
    split at ran <;> injection ran with ran <;> subst ran
    · exact h.again _
    · exact h.claim (hi rfl)
  | lockTry d =>
    simp only [exec, execLockTry] at ran
    split at ran <;> injection ran with ran <;> subst ran
    · exact h
    · exact h.claim (d := d) (hi rfl)
  | displayInit d width height fb freq busAddr =>
    simp only [exec, execDisplayInit] at ran
    split at ran
    · next admitted =>
      exact initSubmit_recordsFit ran (h.setDisplay_of_lt (d := d) (hi rfl) (displayAdmitted_fb_lt admitted))
    · cases ran
  | refreshStart d => exact selectPage_recordsFit ran (h.setCursor_zero d)
  | brightnessSet d level =>
    simp only [exec, execBrightnessSet] at ran
    split at ran
    · injection ran with ran
      exact ran ▸ h.again _
    · exact spin_recordsFit ran (h.claim (d := d) (hi rfl))

theorem runPart_recordsFit {p : Part} {s t : State} (ran : runPart p s = .next t) (h : RecordsFit s) :
    RecordsFit t := by
  cases p with
  | setFreq | patchSelect | patchBright =>
    injection ran with ran
    subst ran
    exact h
  | initSubmit => exact initSubmit_recordsFit ran h
  | submitSelect | submitBright => exact spin_recordsFit ran h

/-- An assignment is looked at before it is made (log 29), and a word is decoded. -/
theorem runLine_recordsFit {a : HostAct} {s t : State} (ran : runLine a s = .next t) (h : RecordsFit s) :
    RecordsFit t := by
  cases a with
  | part => exact runPart_recordsFit ran h
  | lineOnArg | updateOnArg => cases ran
  | memw addr b =>
    simp only [runLine] at ran
    split at ran
    · injection ran with ran
      subst ran
      exact h
    · cases ran
  | update d u =>
    simp only [runLine] at ran
    split at ran
    · next checks =>
      obtain ⟨hd, hu⟩ := Bool.and_eq_true_iff.1 checks
      injection ran with ran
      exact ran ▸ h.update (of_decide_eq_true hd) hu
    · cases ran
  | line w =>
    simp only [runLine] at ran
    split at ran
    · split at ran
      · next i decoded => exact exec_recordsFit ran (decode_fitsHostLine decoded) h
      · cases ran
    · cases ran

theorem eventInstr_format (b : BusState) : (eventInstr b).format = .st := by
  cases b <;> rfl

theorem RecordsFit.moves {s t : State} (h : RecordsFit s) (move : Moves s t) : RecordsFit t := by
  cases move with
  | engine _ _ ran => obtain rfl | ⟨y, rfl | rfl⟩ := exec_decodeCmd_next ran <;> exact h
  | handler _ _ ran => exact (exec_recordsFit ran (by simp [eventInstr_format]) h).closeWindow
  | callbackReturn => exact h
  | callbackLine _ _ ran => exact (runLine_recordsFit ran h).closeWindow
  | mainLine _ _ ran => exact runLine_recordsFit ran h
  | procedure => exact h

/-- Settles O55: every move keeps both, the counts by the event steps and the accepted submissions, the widths by
what the decoder, the lines of host code and DISPLAY.INIT look at before a record is written. -/
theorem stepKeepsTheCountRelations : Obligations.StepKeepsTheCountRelations := by
  unfold Obligations.StepKeepsTheCountRelations
  intro s t h
  exact ⟨fun counts => step_keeps (fun _ => id) CountsFit.moves counts h,
    fun records => step_keeps (fun _ => id) RecordsFit.moves records h⟩

end Sys2Proof.Machine
end

section
/-!
PROOFS. A step runs the decoded operation of the one agent that can move (rules R30, R55, R120, R211), and what
the handler window holds while it is open (rules R23, R212, R213).
-/

namespace Sys2Proof.Machine

/-! ### One agent alone -/

theorem step_of_one_ready {s : State} {a : Agent} (h : ready s = [a]) : step s = move a s := by
  simp only [step, moveOne, h]

theorem engineReady_cons (s : State) {c : Command} {rest : List Command} (h : s.cmdq = c :: rest) :
    engineReady s = !c.stalls := by
  simp only [engineReady, h]

theorem runLine_of_decode {s : State} {w : PortWord} {i : Instr} (carried : portCarries s.ctx w = true)
    (decoded : decode s.par.widths w = .ok i) : runLine (.line w) s = exec i s := by
  simp only [runLine, carried, decoded, if_true]

/-- Main-line runs its line where no event is pending and none can come (rule R211). -/
theorem runMainline_of_not_preemptible {s : State} {a : HostAct} {rest : List HostAct} (next : s.main = a :: rest)
    (still : preemptible s = false) : runMainline s = runLine a { s with main := rest } := by
  simp [runMainline, next, still]

theorem step_mainline_alone {s : State} {w : PortWord} {rest : List HostAct} {i : Instr} (ctx : s.ctx = .main)
    (noEvent : s.evPending = false) (noCommand : engineReady s = false) (next : s.main = .line w :: rest)
    (carried : portCarries .main w = true) (decoded : decode s.par.widths w = .ok i) :
    step s = exec i { s with main := rest } := by
  have alone : ready s = [.mainline] := by simp [ready, ctx, noEvent, noCommand, next]
  have still : preemptible s = false := by simp [preemptible, noEvent, noCommand]
  rw [step_of_one_ready alone, move, runMainline_of_not_preemptible next still]
  exact runLine_of_decode (by rwa [ctx]) decoded

theorem step_handler_alone {s : State} {i : Instr} (ctx : s.ctx = .main) (event : s.evPending = true)
    (noCommand : engineReady s = false) (noLine : s.main = [])
    (decoded : decode s.par.widths (.st (stateCode s.state)) = .ok i) :
    step s = onNext closeWindow (exec i (takeEvent s)) := by
  have alone : ready s = [.handler] := by simp [ready, ctx, event, noCommand, noLine]
  rw [step_of_one_ready alone, move]
  simp only [runHandler, decoded]

theorem step_engine_alone {s : State} {w : BitVec 10} {rest : List Command} (ctx : s.ctx = .main)
    (noEvent : s.evPending = false) (noLine : s.main = []) (queued : s.cmdq = { word := w, stalls := false } :: rest) :
    step s = exec (decodeCmd w) { s with cmdq := rest } := by
  have alone : ready s = [.engine] := by simp [ready, ctx, noEvent, noLine, engineReady_cons s queued]
  rw [step_of_one_ready alone, move]
  simp only [runEngine, queued]

theorem step_callback_alone {s : State} {w : PortWord} {rest : List HostAct} {i : Instr} (ctx : s.ctx = .handler)
    (noCommand : engineReady s = false) (next : s.todo = .line w :: rest) (carried : portCarries .handler w = true)
    (decoded : decode s.par.widths w = .ok i) : step s = onNext closeWindow (exec i { s with todo := rest }) := by
  have alone : ready s = [.callback] := by simp [ready, ctx, noCommand]
  rw [step_of_one_ready alone, move]
  simp only [runCallback, next]
  exact congrArg (onNext closeWindow) (runLine_of_decode (by rwa [ctx]) decoded)

/-- Settles O5: one lemma for each agent that alone can move. -/
theorem stepRunsTheDecodedOperation : Obligations.StepRunsTheDecodedOperation := by
  unfold Obligations.StepRunsTheDecodedOperation
  refine ⟨fun _ _ _ _ => step_mainline_alone, fun _ _ => step_handler_alone, ?_, fun _ _ _ _ => step_callback_alone⟩
  intro s w rest i ctx noEvent noLine queued decoded
  obtain rfl : decodeCmd w = i := by injection decoded
  exact step_engine_alone ctx noEvent noLine queued

/-! ### The handler window -/

/-- A bus command leaves the work lists and the context alone, and takes no event back. -/
theorem exec_decodeCmd_frame {w : BitVec 10} {s t : State} (h : exec (decodeCmd w) s = .next t) :
    t.ctx = s.ctx ∧ t.main = s.main ∧ t.todo = s.todo ∧ (s.evPending = true → t.evPending = true) := by
  obtain rfl | ⟨y, rfl | rfl⟩ := exec_decodeCmd_next h
  · exact ⟨rfl, rfl, rfl, id⟩
  · exact ⟨rfl, rfl, rfl, id⟩
  · exact ⟨rfl, rfl, rfl, fun _ => rfl⟩

/-- A line that a callback runs leaves the window open, and main-line and the event alone (rule R212). -/
theorem runLine_frame_of_handler {a : HostAct} {s t : State} (h : runLine a s = .next t) (ctx : s.ctx = .handler) :
    t.ctx = .handler ∧ t.main = s.main ∧ t.evPending = s.evPending := by
  obtain effect | ⟨-, cb, arg, ran⟩ := runLine_effect h
  · exact ⟨effect.ctx.trans ctx, effect.main_of_handler ctx, effect.ev⟩
  · exact invoke_frame ran

/-- A line that main-line runs has no completion word, so it starts no callback (rule R31). -/
theorem runLine_frame_of_main {a : HostAct} {s t : State} (h : runLine a s = .next t) (ctx : s.ctx = .main) :
    t.ctx = .main ∧ t.todo = s.todo := by
  obtain effect | ⟨window, -, -, -⟩ := runLine_effect h
  · exact ⟨effect.ctx.trans ctx, effect.todo_of_main ctx⟩
  · rw [ctx] at window
    cases window

/-- An event step ends inside the window it runs in. -/
theorem eventStep_ctx {b : BusState} {s t : State} (h : exec (eventInstr b) s = .next t) (ctx : s.ctx = .handler) :
    t.ctx = .handler := by
  cases b with
  | idle | stop => exact (invoke_frame h).1
  | slaveAddress | writePrefix | writeByte =>
    injection h with h
    subst h
    exact ctx

/-- From an open window the return is made exactly when no line is left (rule R213). -/
theorem closeWindow_ctx_main_iff {s : State} (ctx : s.ctx = .handler) :
    (closeWindow s).ctx = .main ↔ s.todo = [] := by
  cases lines : s.todo with
  | nil => simp [closeWindow_of_empty s lines]
  | cons a rest => simp [closeWindow_of_lines s lines, ctx]

theorem closeWindow_windowOpen {s : State} (ctx : s.ctx = .handler) : WindowOpen (closeWindow s) := by
  intro returned
  rw [closeWindow_todo]
  exact (closeWindow_ctx_main_iff ctx).1 returned

/-- In an open window main-line and a pending event stand through every move. -/
theorem Moves.frame_of_handler {s t : State} (move : Moves s t) (ctx : s.ctx = .handler) :
    t.main = s.main ∧ (s.evPending = true → t.evPending = true) := by
  cases move with
  | engine _ _ ran =>
    obtain ⟨-, main, -, event⟩ := exec_decodeCmd_frame ran
    exact ⟨main, event⟩
  | callbackReturn => exact ⟨rfl, id⟩
  | callbackLine _ _ ran =>
    obtain ⟨-, main, event⟩ := runLine_frame_of_handler ran ctx
    exact ⟨(closeWindow_main _).trans main, ((closeWindow_evPending _).trans event).trans⟩
  | handler window | mainLine window | procedure window =>
    rw [ctx] at window
    cases window

/-- Settles O8: of the moves in context Handler none runs a main-line line or takes an event. -/
theorem openWindowHoldsEventsAndMainline : Obligations.OpenWindowHoldsEventsAndMainline := by
  unfold Obligations.OpenWindowHoldsEventsAndMainline
  intro s t ctx h
  obtain rfl | move | move := step_next h
  · exact ⟨rfl, id⟩
  · exact move.frame_of_handler ctx
  · exact move.frame_of_handler (s := s.bump) ctx

theorem WindowOpen.moves {s t : State} (h : WindowOpen s) (move : Moves s t) : WindowOpen t := by
  cases move with
  | engine _ _ ran =>
    obtain ⟨ctx, -, todo, -⟩ := exec_decodeCmd_frame ran
    exact fun returned => todo.trans (h (ctx.symm.trans returned))
  | handler _ _ ran => exact closeWindow_windowOpen (eventStep_ctx ran rfl)
  | callbackReturn _ lines => exact fun _ => lines
  | callbackLine ctx _ ran => exact closeWindow_windowOpen (runLine_frame_of_handler ran ctx).1
  | mainLine ctx _ ran => exact fun _ => (runLine_frame_of_main ran ctx).2.trans (h ctx)
  | procedure => exact h

/-- Settles O11: a window closes only when no callback line is left, and in context Main no move adds one. -/
theorem mainContextHasNoCallbackLine : Obligations.MainContextHasNoCallbackLine := by
  unfold Obligations.MainContextHasNoCallbackLine
  intro s t h ran
  exact step_keeps (fun _ => id) WindowOpen.moves h ran

end Sys2Proof.Machine
end

section
/-!
PROOFS. The bus engine's contract: the commands reach the wires in the order given, each with the event it owes
(rules R55 to R59), and a stall is a hang (rule R60).
-/

namespace Sys2Proof.Machine

/-! ### The symbols of the commands (rules R55, R59, R76) -/

theorem symOf_startWord : symOf startWord = some .start := rfl

theorem symOf_stopWord : symOf stopWord = some .stop := rfl

theorem symOf_writeWord (b : Byte) : symOf (writeWord b) = some (.write b) := by
  revert b
  decide

/-- A bus command puts its word's symbol, if it has one, on the wires, and takes and hands over no other. -/
theorem exec_decodeCmd_wires {w : BitVec 10} {s t : State} (h : exec (decodeCmd w) s = .next t) :
    t.wires = s.wires ++ (symOf w).toList ∧ t.cmdq = s.cmdq ∧ t.wireTrace = s.wireTrace := by
  unfold decodeCmd at h
  unfold symOf
  split_ifs at h ⊢ <;> injection h with h <;> subst h
  · exact ⟨(List.append_nil _).symm, rfl, rfl⟩
  · exact ⟨rfl, rfl, rfl⟩
  · exact ⟨rfl, rfl, rfl⟩
  · exact ⟨rfl, rfl, rfl⟩

/-! ### The wires in order -/

/-- The order looks at the wires, the outstanding commands and the wire trace alone. -/
theorem WiresInOrder.congr {s t : State} (h : WiresInOrder s) (hw : t.wires = s.wires) (hq : t.cmdq = s.cmdq)
    (ht : t.wireTrace = s.wireTrace) : WiresInOrder t := by
  unfold WiresInOrder at h ⊢
  rwa [hw, hq, ht]

/-- A command handed over with its own symbol comes last among the outstanding ones. -/
theorem WiresInOrder.handOver {s t : State} (h : WiresInOrder s) {c : Command} {y : Sym} (hy : symOf c.word = some y)
    (hw : t.wires = s.wires) (hq : t.cmdq = s.cmdq ++ [c]) (ht : t.wireTrace = s.wireTrace ++ [y]) :
    WiresInOrder t := by
  unfold WiresInOrder at h ⊢
  rw [hw, hq, ht, h]
  simp [hy]

theorem WiresInOrder.hand {s : State} (h : WiresInOrder s) {w : BitVec 10} {y : Sym} (hy : symOf w = some y) :
    WiresInOrder (s.hand w y) :=
  h.handOver (c := { word := w, stalls := Config.busStalls s.freeIx }) hy rfl rfl rfl

/-- The oldest command performed moves from the outstanding ones to the wires. -/
theorem WiresInOrder.perform {s t : State} (h : WiresInOrder s) {c : Command} {rest : List Command}
    (queued : s.cmdq = c :: rest) (hw : t.wires = s.wires ++ (symOf c.word).toList) (hq : t.cmdq = rest)
    (ht : t.wireTrace = s.wireTrace) : WiresInOrder t := by
  unfold WiresInOrder at h ⊢
  rw [hw, hq, ht, h, queued]
  cases hy : symOf c.word <;> simp [hy]

/-- A host operation keeps the order: an accepted submission hands over START. -/
theorem WiresInOrder.of_busEffect {s t : State} (h : WiresInOrder s) (hw : t.wires = s.wires) (hb : BusEffect s t) :
    WiresInOrder t := by
  obtain ⟨-, -, hq, ht⟩ | ⟨-, -, ht, ⟨c, hc, hq⟩, -⟩ := hb
  · exact h.congr hw hq ht
  · exact h.handOver (hc ▸ symOf_startWord) hw hq ht

/-- A routine's start performs no command. -/
theorem invoke_wires {cb : CbId} {arg : Arg} {s t : State} (h : invoke cb arg s = .next t) : t.wires = s.wires := by
  obtain ⟨-, effect | ⟨body, -, rfl⟩⟩ := callRoutine_next h
  · exact effect.wires
  · rfl

theorem invoke_wiresInOrder {cb : CbId} {arg : Arg} {s t : State} (ran : invoke cb arg s = .next t)
    (h : WiresInOrder s) : WiresInOrder t :=
  h.of_busEffect (invoke_wires ran) (invoke_busEffect ran)

theorem runLine_wiresInOrder {a : HostAct} {s t : State} (ran : runLine a s = .next t) (h : WiresInOrder s) :
    WiresInOrder t := by
  obtain effect | ⟨-, cb, arg, ran⟩ := runLine_effect ran
  · exact h.of_busEffect effect.wires effect.bus
  · exact invoke_wiresInOrder ran h

/-- STOP is handed over before the callback runs (rule R122). -/
theorem finishTransaction_wiresInOrder {s t : State} (ran : finishTransaction s = .next t) (h : WiresInOrder s) :
    WiresInOrder t :=
  invoke_wiresInOrder ran ((h.hand symOf_stopWord).congr rfl rfl rfl)

/-- An event step hands over one command: STOP at a transaction's end, before the callback, else one WRITE. -/
theorem eventStep_wiresInOrder {b : BusState} {s t : State} (ran : exec (eventInstr b) s = .next t)
    (h : WiresInOrder s) : WiresInOrder t := by
  cases b with
  | idle | stop => exact finishTransaction_wiresInOrder ran h
  | slaveAddress | writePrefix | writeByte =>
    injection ran with ran
    subst ran
    exact (h.hand (symOf_writeWord _)).congr rfl rfl rfl

theorem WiresInOrder.closeWindow {s : State} (h : WiresInOrder s) : WiresInOrder (closeWindow s) :=
  h.congr (closeWindow_wires s) (closeWindow_cmdq s) (closeWindow_wireTrace s)

theorem WiresInOrder.moves {s t : State} (h : WiresInOrder s) (move : Moves s t) : WiresInOrder t := by
  cases move with
  | engine queued _ ran =>
    obtain ⟨wires, outstanding, trace⟩ := exec_decodeCmd_wires ran
    exact h.perform queued wires outstanding trace
  | handler _ _ ran => exact (eventStep_wiresInOrder ran h).closeWindow
  | callbackReturn => exact h
  | callbackLine _ _ ran => exact (runLine_wiresInOrder ran h).closeWindow
  | mainLine _ _ ran => exact runLine_wiresInOrder ran h
  | procedure => exact h

/-- Settles O56: TXE hands every command over with its symbol in the trace, and the bus engine performs the
oldest. -/
theorem stepKeepsTheWiresInOrder : Obligations.StepKeepsTheWiresInOrder := by
  unfold Obligations.StepKeepsTheWiresInOrder
  intro s t h ran
  exact step_keeps (fun _ => id) WiresInOrder.moves h ran

/-! ### The bus commands and the stall -/

/-- Settles O30: `performed` and `raiseEvent` written out (rules R55 to R57). -/
theorem busCommandsRaiseTheirEvents : Obligations.BusCommandsRaiseTheirEvents := by
  unfold Obligations.BusCommandsRaiseTheirEvents
  exact fun s b => ⟨rfl, rfl, rfl, rfl⟩

/-- With no agent ready a step leaves the state as it is (rules R209, R255). -/
theorem step_of_none_ready {s : State} (h : ready s = []) : step s = .next s := by
  simp only [step, moveOne, h]

theorem stuckBus_iff (s : State) :
    s.stuckBus = true ↔ s.state ≠ .idle ∧ s.evPending = false ∧ engineReady s = false := by
  simp [State.stuckBus, State.inFlight, and_assoc]

/-- Settles O10: on a stalled bus without a main-line line no agent is ready. -/
theorem stalledBusHangsForEver : Obligations.StalledBusHangsForEver := by
  unfold Obligations.StalledBusHangsForEver
  intro s stuck ctx noLine
  obtain ⟨-, noEvent, noCommand⟩ := (stuckBus_iff s).1 stuck
  have noneReady : ready s = [] := by simp [ready, ctx, noEvent, noCommand, noLine]
  exact step_of_none_ready noneReady

end Sys2Proof.Machine
end

section
/-!
PROOFS. What is written in host memory and in the display records: by the lines of host code that store and assign
(rules R44, R51, R151), and by the operations (rules R41, R84, R184).
-/

namespace Sys2Proof.Machine

/-! ### Lines that store and assign (rules R44, R51, R151) -/

theorem runLine_memw_of_lt {s : State} {a : Addr} (h : a < 2 ^ s.par.widths.ptrW) (b : Byte) :
    runLine (.memw a b) s = .next (s.writeByte a b) := by
  simp [runLine, fits, h]

theorem runLine_memw_of_wide {s : State} {a : Addr} (h : 2 ^ s.par.widths.ptrW ≤ a) (b : Byte) :
    runLine (.memw a b) s = .fault .noSuchAddress := by
  simp [runLine, fits, h]

theorem runLine_update_of_fits {s : State} {d : Arg} {u : DisplayUpdate} (hd : d < 2 ^ s.par.widths.argW)
    (hu : u.fits s.par.widths = true) : runLine (.update d u) s = .next (s.update d u) := by
  simp [runLine, fits, hd, hu]

/-- An assignment fits unless it gives the frame buffer an address of more than `PTR_W` bits (rule R28). -/
theorem DisplayUpdate.fits_eq_false_iff (W : Widths) (u : DisplayUpdate) :
    u.fits W = false ↔ ∃ a, 2 ^ W.ptrW ≤ a ∧ u = .fb a := by
  cases u <;> simp [DisplayUpdate.fits, Sys2Proof.fits]

theorem runLine_update_of_wide {s : State} {d : Arg} {u : DisplayUpdate}
    (h : 2 ^ s.par.widths.argW ≤ d ∨ u.fits s.par.widths = false) :
    runLine (.update d u) s = .refused .wideAssignment := by
  obtain wide | wide := h
  · simp [runLine, fits, Nat.not_lt.2 wide]
  · simp [runLine, wide]

theorem readByte_writeByte_same (s : State) (a : Addr) (b : Byte) : (s.writeByte a b).readByte a = b :=
  Memory.read_write_same s.par s.mem a b

theorem readByte_writeByte_other (s : State) {a c : Addr} (b : Byte) (h : c ≠ a) :
    (s.writeByte a b).readByte c = s.readByte c :=
  Memory.read_write_other s.par s.mem b h

theorem display_update_same (s : State) (d : Arg) (u : DisplayUpdate) :
    (s.update d u).display d = u.apply (s.display d) :=
  Displays.get_put_same s.displays d _

theorem display_update_other (s : State) {d e : Arg} (u : DisplayUpdate) (h : e ≠ d) :
    (s.update d u).display e = s.display e :=
  Displays.get_put_other s.displays _ h

/-- Settles O50: a line that fits is one store or one written record, and any other stops. -/
theorem hostStoreIsReadBack : Obligations.HostStoreIsReadBack := by
  unfold Obligations.HostStoreIsReadBack
  refine ⟨fun s a b => ⟨fun ha => ?_, fun ha => runLine_memw_of_wide ha b⟩, ?_, ?_⟩
  · exact ⟨_, runLine_memw_of_lt ha b, rfl, readByte_writeByte_same s a b,
      fun c hc => readByte_writeByte_other s b hc⟩
  · intro s d u r hd assigns
    have fits_apply : u.fits s.par.widths = true ∧ u.apply (s.display d) = r := by
      obtain ⟨n, natural⟩ | ⟨rfl, rfl⟩ | ⟨a, rfl, rfl⟩ | ⟨a, ha, rfl, rfl⟩ | ⟨held, rfl, rfl⟩ := assigns
      · obtain ⟨rfl, rfl⟩ | ⟨rfl, rfl⟩ | ⟨rfl, rfl⟩ | ⟨rfl, rfl⟩ := natural <;> exact ⟨rfl, rfl⟩
      · exact ⟨rfl, rfl⟩
      · exact ⟨rfl, rfl⟩
      · exact ⟨decide_eq_true ha, rfl⟩
      · exact ⟨rfl, rfl⟩
    obtain ⟨hu, rfl⟩ := fits_apply
    exact ⟨_, runLine_update_of_fits hd hu, rfl, display_update_same s d u,
      fun e he => display_update_other s u he⟩
  · intro s d u wide
    exact runLine_update_of_wide (wide.imp_right (DisplayUpdate.fits_eq_false_iff _ u).2)

/-! ### What the operations write in host memory (rules R41, R84, R184) -/

/-- Two memories read alike but at the page byte of SELBUF and the level byte of BRIGHTBUF. -/
def SameButBuffers (p : Params) (m m' : List Host.Cell) : Prop :=
  ∀ a, a ≠ selectAddr p → a ≠ brightAddr p → Memory.read p m' a = Memory.read p m a

theorem SameButBuffers.of_eq {m m' : List Host.Cell} (p : Params) (h : m' = m) : SameButBuffers p m m' :=
  fun _ _ _ => by rw [h]

theorem patchSelect_sameButBuffers (d : Arg) (s : State) : SameButBuffers s.par s.mem (patchSelect d s).mem :=
  fun _ notPage _ => Memory.read_write_other s.par s.mem _ notPage

theorem patchBright_sameButBuffers (level : Byte) (s : State) :
    SameButBuffers s.par s.mem (patchBright level s).mem :=
  fun _ _ notLevel => Memory.read_write_other s.par s.mem _ notLevel

/-- A submission stores nothing if neither of its two outcomes does. -/
theorem submitOr_mem {q : Submission} {ok busy : State → State} {s t : State} (ran : submitOr q ok busy s = .next t)
    (hok : ∀ u, (ok u).mem = u.mem) (hbusy : (busy s).mem = s.mem) : t.mem = s.mem := by
  obtain ⟨-, ⟨-, rfl⟩ | ⟨-, rfl⟩⟩ := submitOr_next ran
  · exact hok _
  · exact hbusy

theorem spin_mem {q : Submission} {s t : State} (ran : spin q s = .next t) : t.mem = s.mem :=
  submitOr_mem ran (fun _ => rfl) (State.again_mem s _)

theorem submitOnce_mem {self : Instr} {q : Submission} {s t : State} (ran : submitOnce self q s = .next t) :
    t.mem = s.mem := by
  refine submitOr_mem ran (fun _ => rfl) ?_
  split
  · exact State.again_mem s self
  · rfl

theorem initSubmit_mem {d : Arg} {busAddr : BitVec 8} {s t : State} (ran : initSubmit d busAddr s = .next t) :
    t.mem = s.mem :=
  submitOr_mem ran (fun _ => rfl) rfl

theorem selectPage_sameButBuffers {d : Arg} {s t : State} (ran : selectPage d s = .next t) :
    SameButBuffers s.par s.mem t.mem :=
  spin_mem ran ▸ patchSelect_sameButBuffers d s

theorem xferDone_sameButBuffers {d : Arg} {s t : State} (ran : xferDone d s = .next t) :
    SameButBuffers s.par s.mem t.mem := by
  unfold xferDone nextPage at ran
  split at ran
  · injection ran with ran
    exact .of_eq _ (ran ▸ rfl)
  · exact (selectPage_sameButBuffers ran :)

/-- Of the routines CB.XFER_DONE alone stores: the number of the next page. -/
theorem callRoutine_sameButBuffers {cb : CbId} {arg : Arg} {s t : State} (ran : callRoutine cb arg s = .next t) :
    SameButBuffers s.par s.mem t.mem := by
  unfold callRoutine at ran
  split_ifs at ran
  · injection ran with ran
    exact .of_eq _ (ran ▸ rfl)
  · injection ran with ran
    exact .of_eq _ (ran ▸ rfl)
  · exact .of_eq _ (spin_mem ran)
  · exact xferDone_sameButBuffers ran
  · split at ran
    · cases ran
    · injection ran with ran
      exact .of_eq _ (ran ▸ rfl)

theorem invoke_sameButBuffers {cb : CbId} {arg : Arg} {s t : State} (ran : invoke cb arg s = .next t) :
    SameButBuffers s.par s.mem t.mem :=
  (callRoutine_sameButBuffers ran :)

theorem finishTransaction_sameButBuffers {s t : State} (ran : finishTransaction s = .next t) :
    SameButBuffers s.par s.mem t.mem :=
  (invoke_sameButBuffers ran :)

/-- The byte steps, SUBMIT and the bus commands store nothing (rule R41). -/
theorem exec_mem {i : Instr}
    (hi : i = .evSlaveAddress ∨ i = .evWritePrefix ∨ i = .evWriteByte ∨ i.format = .sub ∨ i.format = .cmd)
    {s t : State} (ran : exec i s = .next t) : t.mem = s.mem := by
  cases i with
  | evSlaveAddress | evWritePrefix | evWriteByte | busNone | busStart | busWrite | busStop =>
    injection ran with ran
    exact ran ▸ rfl
  | submit => exact submitOnce_mem ran
  | _ => simp [Instr.format] at hi

/-- Every operation stores at most the page byte of SELBUF and the level byte of BRIGHTBUF. -/
theorem exec_sameButBuffers {i : Instr} {s t : State} (ran : exec i s = .next t) :
    SameButBuffers s.par s.mem t.mem := by
  cases i with
  | evIdle | evStop => exact finishTransaction_sameButBuffers ran
  | evSlaveAddress | evWritePrefix | evWriteByte | submit | busNone | busStart | busWrite | busStop =>
    exact .of_eq _ (exec_mem (by simp [Instr.format]) ran)
  | complete cb arg => exact invoke_sameButBuffers ran
  | cbNop | cbRelease | lockRelease =>
    injection ran with ran
    exact .of_eq _ (ran ▸ rfl)
  | cbSelectDone | submitSpin | submitCmd | submitPage => exact .of_eq _ (spin_mem ran)
  | cbXferDone d => exact xferDone_sameButBuffers ran
  | submitHost => exact .of_eq _ (submitOnce_mem ran)
  | lockAcquire d =>
    simp only [exec, execLockAcquire] at ran
    split at ran <;> injection ran with ran <;> subst ran
    · exact .of_eq _ (State.again_mem s _)
    · exact .of_eq _ rfl
  | lockTry d =>
    simp only [exec, execLockTry] at ran
    split at ran <;> injection ran with ran <;> exact .of_eq _ (ran ▸ rfl)
  | displayInit =>
    simp only [exec, execDisplayInit] at ran
    split at ran
    · exact .of_eq _ (initSubmit_mem ran :)
    · cases ran
  | refreshStart d => exact (selectPage_sameButBuffers (s := setCursor d 0 s) ran :)
  | brightnessSet d level =>
    simp only [exec, execBrightnessSet] at ran
    split at ran
    · injection ran with ran
      exact .of_eq _ (ran ▸ State.again_mem s _)
    · exact spin_mem ran ▸ patchBright_sameButBuffers level (claim d s)

/-- Settles O28: memory is read with the parameters, which stand. -/
theorem onlyTheCommandBuffersAreWritten : Obligations.OnlyTheCommandBuffersAreWritten := by
  unfold Obligations.OnlyTheCommandBuffersAreWritten
  intro i s t ran
  refine ⟨fun a notPage notLevel => ?_, fun hi => exec_mem hi ran⟩
  rw [State.readByte, (parametersAndCallbackTableAreFixed i s t ran).1]
  exact exec_sameButBuffers ran a notPage notLevel

end Sys2Proof.Machine
end

section
/-!
PROOFS. A submission outside the caller contract is refused (rules R48, R105), among them the transfer of a page that
passes the top of the address space (rule R181).
-/

namespace Sys2Proof.Machine

/-- The identifiers of rule R77 are the routines of clause 3 of rule R105, with those of the host's own table. -/
theorem isRoutine_iff (s : State) (cb : CbId) :
    isRoutine s cb = true ↔ cb = 1 ∨ cb = 2 ∨ cb = 3 ∨ cb = 4 ∨ ∃ body, (cb, body) ∈ s.routines := by
  simp only [isRoutine, isClientCb, Bool.or_eq_true, beq_iff_eq, lookup_isSome_iff, or_assoc]

/-- The check of a submission finds no flaw where the caller contract is met, and nowhere else. -/
theorem submitFlaw_none_iff_contractMet (s : State) (q : Submission) : submitFlaw s q = none ↔ ContractMet s q := by
  rw [submitFlaw_none_iff, ContractMet, runFlaw_none_iff_runMet, runFlaw_none_iff_runMet, Submission.fits_iff,
    isRoutine_iff]

/-- A submission outside the caller contract is refused, whatever would have followed it (rules R105, R112). -/
theorem submitOr_of_not_contractMet {s : State} {q : Submission} (ok busy : State → State) (h : ¬ContractMet s q) :
    ∃ f, submitOr q ok busy s = .refused (.illFormedSubmission f) := by
  obtain ⟨f, flaw⟩ := Option.ne_none_iff_exists'.1 (mt (submitFlaw_none_iff_contractMet s q).1 h)
  exact ⟨f, submitOr_of_flaw ok busy flaw⟩

theorem runFlaw_of_wraps {p : Params} {ptr len : Nat} (counted : 1 ≤ len) (nonNull : ptr ≠ 0)
    (wraps : 2 ^ p.widths.ptrW < ptr + len) : runFlaw p ptr len = some .wraps := by
  simp [runFlaw, Nat.one_le_iff_ne_zero.1 counted, nonNull, wraps]

theorem submitFlaw_of_data {s : State} {q : Submission} {f : RunFlaw} (pfx : runFlaw s.par q.pfx q.pfxLen = none)
    (data : runFlaw s.par q.data q.dataLen = some f) : submitFlaw s q = some (.ofData f) := by
  simp only [submitFlaw, pfx, data]

/-- CB.SELECT_DONE submits the page at the display's cursor by spinning (rule R181). -/
theorem exec_cbSelectDone_eq (d : Arg) (s : State) :
    exec (.cbSelectDone d) s = spin (pageRequest s.par d (s.display d) (s.display d).cursor) s :=
  rfl

/-- Settles O36: the refusal is that of the page's submission, and the payload's wrap is the first flaw found. -/
theorem selectDonePastTheTopIsRefused : Obligations.SelectDonePastTheTopIsRefused := by
  unfold Obligations.SelectDonePastTheTopIsRefused
  intro s d
  rw [exec_cbSelectDone_eq]
  refine ⟨submitOr_of_not_contractMet _ _, fun pfxMet counted nonNull wraps => ?_⟩
  have pfx := (runFlaw_none_iff_runMet s.par s.par.dataPfx 1).2 pfxMet
  exact submitOr_of_flaw _ _ (submitFlaw_of_data pfx (runFlaw_of_wraps counted nonNull wraps))

end Sys2Proof.Machine
end

section
/-!
PROOFS. Encoder and decoder against each other at every width (rules R70 to R77, R83, R88), and the words that
spell nothing (rules R72, R73, R81 to R83).
-/

namespace Sys2Proof

/-! ### From an operation to its word and back -/

theorem fits_iff {n v : Nat} : fits n v = true ↔ v < 2 ^ n :=
  decide_eq_true_iff

/-- A present run ends inside the address space, so its reference has `PTR_W` bits; an absent one is null. -/
theorem runWf_ptr_lt {n ptr len : Nat} (h : runWf n ptr len = true) : ptr < 2 ^ n := by
  have space : 0 < 2 ^ n := Nat.two_pow_pos n
  simp only [runWf, Bool.or_eq_true, Bool.and_eq_true, beq_iff_eq, bne_iff_ne, decide_eq_true_eq] at h
  omega

/-- A well-formed submission fits the fields of a SUB word (rule R73). -/
theorem Submission.bounds_of_wf {W : Widths} {q : Submission} (h : q.wf W = true) : q.Bounds W := by
  simp only [Submission.wf, Bool.and_eq_true] at h
  obtain ⟨⟨⟨prefixRun, dataRun⟩, -⟩, operands⟩ := h
  obtain ⟨pfxLen, dataLen, cb, arg⟩ := (Machine.Submission.fits_iff W q).1 operands
  exact ⟨runWf_ptr_lt prefixRun, pfxLen, runWf_ptr_lt dataRun, dataLen, cb, arg⟩

/-- The decoder's check of a pseudo-operation's operands passes what fits a SUB word (rule R88). -/
theorem Submission.Bounds.operandsFit {W : Widths} {q : Submission} (h : q.Bounds W) :
    operandsFit W q.address.toNat q.pfx q.pfxLen q.data q.dataLen q.cb q.arg = true := by
  simp only [Sys2Proof.operandsFit, Bool.and_eq_true, fits_iff]
  exact ⟨⟨⟨⟨⟨⟨q.address.isLt, h.pfx⟩, h.pfxLen⟩, h.data⟩, h.dataLen⟩, h.cb⟩, h.arg⟩

/-- `CB_W` holds the identifiers of the client callbacks (rule R77; log 1). -/
theorem clientId_lt {W : Widths} (hW : W.wf = true) {cb : CbId} (h : cb ≤ 4) : cb < 2 ^ W.cbW := by
  simp only [Widths.wf, Bool.and_eq_true, decide_eq_true_eq] at hW
  calc cb < 2 ^ 3 := Nat.lt_of_le_of_lt h (by decide)
    _ ≤ 2 ^ W.cbW := Nat.pow_le_pow_right (by decide) hW.2

theorem completionOf_of_not_client {cb : CbId} (h : isClientCb cb = false) (arg : Arg) :
    completionOf cb arg = .complete cb arg := by
  simp only [isClientCb, Bool.or_eq_false_iff, beq_eq_false_iff_ne] at h
  obtain ⟨⟨⟨h1, h2⟩, h3⟩, h4⟩ := h
  simp only [completionOf, h1, h2, h3, h4, if_false]

theorem decodeCmd_writeWord (b : Byte) : decodeCmd (writeWord b) = .busWrite b := by
  have op : (writeWord b).extractLsb' 8 2 = 2#2 := BitVec.extractLsb'_append_eq_left
  have wdata : (writeWord b).extractLsb' 0 8 = b := BitVec.extractLsb'_append_eq_right
  simp [decodeCmd, op, wdata]

/-- The word of a well-formed submission, read back as any of the operations that carry a SUB word. -/
theorem map_decodeSub_encodeSub {W : Widths} {q : Submission} (h : q.wf W = true) (f : Submission → Instr) :
    (decodeSub W (encodeSub W q)).map f = .ok (f q) :=
  map_decodeSub_eq_ok.2 ⟨q, decodeSub_encodeSub (Submission.bounds_of_wf h), rfl⟩

/-- A client callback's word read back (rule R77). -/
theorem decodeCpl_clientWord {W : Widths} (hW : W.wf = true) {cb : CbId} (hcb : cb ≤ 4) {d : Arg}
    (hd : fits W.argW d = true) : decodeCpl W (cplWord W cb d) = .ok (completionOf cb d) :=
  decodeCpl_cplWord (clientId_lt hW hcb) (fits_iff.1 hd)

/-- Settles O1, by cases on the operation: the decoder's checks pass because the operands of a well-formed
operation fit their fields, and every field is read back. -/
theorem decodeOfEncodeGivesTheOperation : Obligations.DecodeOfEncodeGivesTheOperation := by
  unfold Obligations.DecodeOfEncodeGivesTheOperation
  intro W i hW h
  cases i with
  | evIdle | evStop | evSlaveAddress | evWritePrefix | evWriteByte | busNone | busStart | busStop => rfl
  | busWrite b => exact congrArg Except.ok (decodeCmd_writeWord b)
  | submit q => exact map_decodeSub_encodeSub h .submit
  | submitHost q => exact map_decodeSub_encodeSub h .submitHost
  | complete cb arg =>
    simp only [Instr.wf, Bool.and_eq_true, Bool.not_eq_true', fits_iff] at h
    obtain ⟨⟨⟨-, notClient⟩, hcb⟩, harg⟩ := h
    exact (decodeCpl_cplWord hcb harg).trans (congrArg Except.ok (completionOf_of_not_client notClient arg))
  | cbNop d => exact decodeCpl_clientWord hW (cb := 1) (by decide) h
  | cbRelease d => exact decodeCpl_clientWord hW (cb := 2) (by decide) h
  | cbSelectDone d => exact decodeCpl_clientWord hW (cb := 3) (by decide) h
  | cbXferDone d => exact decodeCpl_clientWord hW (cb := 4) (by decide) h
  | lockAcquire d | lockTry d | lockRelease d | refreshStart d => exact checked_eq_ok.2 ⟨h, rfl⟩
  | displayInit d width height fb freq busAddr =>
    have display : fits W.argW d = true := (Bool.and_eq_true_iff.1 h).1
    refine checked_eq_ok.2 ⟨Bool.and_eq_true_iff.2 ⟨display, fits_iff.2 busAddr.isLt⟩, ?_⟩
    rw [BitVec.ofNat_toNat, BitVec.setWidth_eq]
  | brightnessSet d level =>
    refine checked_eq_ok.2 ⟨Bool.and_eq_true_iff.2 ⟨h, fits_iff.2 level.isLt⟩, ?_⟩
    rw [BitVec.ofNat_toNat, BitVec.setWidth_eq]
  | submitSpin q =>
    have operands := (Submission.bounds_of_wf h).operandsFit
    refine checked_eq_ok.2 ⟨Bool.and_eq_true_iff.2 ⟨operands, fits_iff.2 q.fastFail.toNat_lt⟩, ?_⟩
    have flag : (q.fastFail.toNat == 1) = q.fastFail := by cases q.fastFail <;> rfl
    rw [BitVec.ofNat_toNat, BitVec.setWidth_eq, flag]
  | submitCmd address buf n cb arg =>
    refine checked_eq_ok.2 ⟨(Submission.bounds_of_wf h).operandsFit, ?_⟩
    rw [BitVec.ofNat_toNat, BitVec.setWidth_eq]
  | submitPage address pfx buf n cb arg =>
    refine checked_eq_ok.2 ⟨(Submission.bounds_of_wf h).operandsFit, ?_⟩
    rw [BitVec.ofNat_toNat, BitVec.setWidth_eq]

/-! ### From a word to its operation and back -/

theorem encode_completionOf (W : Widths) (cb : CbId) (arg : Arg) :
    encode W (completionOf cb arg) = .cpl (cplWord W cb arg) := by
  unfold completionOf
  split_ifs with h1 h2 h3 h4
  · rw [h1, encode]
  · rw [h2, encode]
  · rw [h3, encode]
  · rw [h4, encode]
  · rw [encode]

theorem encode_of_decodeSt (W : Widths) {w : BitVec 3} {i : Instr} (h : decodeSt w = .ok i) :
    encode W i = .st w := by
  unfold decodeSt at h
  split_ifs at h with h0 h1 h2 h3 h4 <;> injection h with h <;> subst h
  · rw [h0, encode]
  · rw [h1, encode]
  · rw [h2, encode]
  · rw [h3, encode]
  · rw [h4, encode]

/-- A word of the CPL port's length is its two fields (rule R77). -/
theorem cplWord_slices {W : Widths} {w : Nat} (h : w < 2 ^ (W.argW + W.cbW)) :
    cplWord W (slice W.argW W.cbW w) (slice 0 W.argW w) = w := by
  have high : w / 2 ^ W.argW < 2 ^ W.cbW := Nat.div_lt_of_lt_mul (Nat.pow_add 2 _ _ ▸ h)
  have field : slice W.argW W.cbW w = w / 2 ^ W.argW := Nat.mod_eq_of_lt high
  rw [cplWord, field, cat_slice]

theorem encode_of_decodeCpl {W : Widths} {w : Nat} {i : Instr} (h : decodeCpl W w = .ok i) : encode W i = .cpl w := by
  unfold decodeCpl at h
  split_ifs at h with length
  injection h with h
  rw [← h, encode_completionOf, cplWord_slices length]

/-- An operand of eight bits is the byte it is read as. -/
theorem toNat_ofNat_of_fits {v : Nat} (h : fits 8 v = true) : (BitVec.ofNat 8 v).toNat = v :=
  (BitVec.toNat_ofNat v 8).trans (Nat.mod_eq_of_lt (fits_iff.1 h))

/-- A flag operand is the bit it is read as. -/
theorem toNat_beq_one_of_fits {v : Nat} (h : fits 1 v = true) : (v == 1).toNat = v := by
  have bit : v < 2 := fits_iff.1 h
  obtain rfl | rfl : v = 0 ∨ v = 1 := by omega
  · rfl
  · rfl

theorem operandsFit_address {W : Widths} {address pfx pfxLen data dataLen cb arg : Nat}
    (h : operandsFit W address pfx pfxLen data dataLen cb arg = true) :
    (BitVec.ofNat 8 address).toNat = address := by
  simp only [operandsFit, Bool.and_eq_true] at h
  obtain ⟨⟨⟨⟨⟨⟨byte, -⟩, -⟩, -⟩, -⟩, -⟩, -⟩ := h
  exact toNat_ofNat_of_fits byte

theorem encode_of_decodeHost {W : Widths} {id : BitVec 4} {ops : List Nat} {i : Instr}
    (h : decodeHost W id ops = .ok i) : encode W i = .host id ops := by
  unfold decodeHost at h
  split_ifs at h with h0 h1 h2 h3 h4 h5 h6
  all_goals split at h
  all_goals simp only [checked_eq_ok, map_decodeSub_eq_ok, reduceCtorEq, Bool.and_eq_true] at h
  · obtain ⟨q, decoded, rfl⟩ := h
    rw [h0, encode, encodeSub_decodeSub decoded]
  · rw [h1, ← h.2, encode]
  · rw [h2, ← h.2, encode]
  · rw [h3, ← h.2, encode]
  · obtain ⟨⟨-, busAddr⟩, rfl⟩ := h
    rw [h4, encode, toNat_ofNat_of_fits busAddr]
  · rw [h5, ← h.2, encode]
  · obtain ⟨⟨-, level⟩, rfl⟩ := h
    rw [h6, encode, toNat_ofNat_of_fits level]

theorem encode_of_decodePseudo {W : Widths} {k : BitVec 2} {ops : List Nat} {i : Instr}
    (h : decodePseudo W k ops = .ok i) : encode W i = .pseudo k ops := by
  unfold decodePseudo at h
  split_ifs at h with h0 h1 h2
  all_goals split at h
  all_goals simp only [checked_eq_ok, reduceCtorEq, Bool.and_eq_true] at h
  · obtain ⟨⟨operands, flag⟩, rfl⟩ := h
    rw [h0, encode, operandsFit_address operands, toNat_beq_one_of_fits flag]
  · obtain ⟨operands, rfl⟩ := h
    rw [h1, encode, operandsFit_address operands]
  · obtain ⟨operands, rfl⟩ := h
    rw [h2, encode, operandsFit_address operands]

/-- Settles O2, by cases on the port: each decoder keeps every bit and operand it reads, but for the `wdata` of a
CMD word. -/
theorem encodeOfDecodeGivesTheWord : Obligations.EncodeOfDecodeGivesTheWord := by
  unfold Obligations.EncodeOfDecodeGivesTheWord
  intro W w i h notCmd
  cases w with
  | st w => exact encode_of_decodeSt W h
  | sub w =>
    rw [decode, map_decodeSub_eq_ok] at h
    obtain ⟨q, decoded, rfl⟩ := h
    exact congrArg PortWord.sub (encodeSub_decodeSub decoded)
  | cmd w => exact absurd rfl notCmd
  | cpl w => exact encode_of_decodeCpl h
  | host id ops => exact encode_of_decodeHost h
  | pseudo k ops => exact encode_of_decodePseudo h

/-! ### Words that spell nothing -/

theorem decodeSt_of_reserved {w : BitVec 3} (h : 5 ≤ w.toNat) : decodeSt w = .error .reservedState := by
  revert h
  revert w
  decide

/-- The reserved bits read as zero only if each of them is clear. -/
theorem slice_ne_zero_of_testBit {lo n w k : Nat} (low : lo ≤ k) (high : k < lo + n) (isSet : w.testBit k = true) :
    slice lo n w ≠ 0 := by
  intro zero
  have bit : (slice lo n w).testBit (k - lo) = true := by
    rw [slice, Nat.testBit_mod_two_pow, Nat.testBit_div_two_pow, Nat.sub_add_cancel low, isSet, Bool.and_true,
      decide_eq_true_eq]
    omega
  rw [zero, Nat.zero_testBit] at bit
  cases bit

theorem decodeSub_of_reservedBit {W : Widths} {w k : Nat} (length : w < 2 ^ subLength W) (low : 1 ≤ k)
    (high : k ≤ 7) (isSet : w.testBit k = true) : decodeSub W w = .error .reservedSubBits := by
  rw [decodeSub, if_pos length, if_neg (slice_ne_zero_of_testBit low (by omega) isSet)]

theorem decodeSub_of_long {W : Widths} {w : Nat} (h : 2 ^ subLength W ≤ w) : decodeSub W w = .error .wrongLength := by
  rw [decodeSub, if_neg (Nat.not_lt.2 h)]

theorem decodeCpl_of_long {W : Widths} {w : Nat} (h : 2 ^ (W.cbW + W.argW) ≤ w) :
    decodeCpl W w = .error .wrongLength := by
  rw [decodeCpl, if_neg (Nat.not_lt.2 (Nat.add_comm W.cbW W.argW ▸ h))]

theorem decodeHost_of_reserved (W : Widths) {id : BitVec 4} (ops : List Nat) (h : 7 ≤ id.toNat) :
    decodeHost W id ops = .error .reservedHostId := by
  have other {k : BitVec 4} (admitted : k.toNat < 7) : id ≠ k := by
    rintro rfl
    omega
  unfold decodeHost
  rw [if_neg (other (k := 0#4) (by decide)), if_neg (other (k := 1#4) (by decide)),
    if_neg (other (k := 2#4) (by decide)), if_neg (other (k := 3#4) (by decide)),
    if_neg (other (k := 4#4) (by decide)), if_neg (other (k := 5#4) (by decide)),
    if_neg (other (k := 6#4) (by decide))]

/-- Settles O4: the check that each reserved word fails, port by port. -/
theorem reservedWordsAreRejectedByName : Obligations.ReservedWordsAreRejectedByName := by
  unfold Obligations.ReservedWordsAreRejectedByName
  intro W
  refine ⟨fun w code => decodeSt_of_reserved code, ?_, ?_, fun w long => decodeCpl_of_long long,
    fun id ops reserved => decodeHost_of_reserved W ops reserved⟩
  · rintro w length ⟨k, low, high, isSet⟩
    rw [decode, decodeSub_of_reservedBit length low high isSet, Except.map]
  · intro w long
    rw [decode, decodeSub_of_long long, Except.map]

end Sys2Proof
end

section
/-!
PROOFS. The operations above SUBMIT and the address byte: a spin is the SUBMIT of its expansion (rule R88), and
`ADDR_BYTE` is the identity but for its list (rules R80, R124).
-/

namespace Sys2Proof.Machine

/-! ### The spins (rule R88) -/

/-- The operations that spin on a submission: SUBMIT.SPIN, and SUBMIT.CMD and SUBMIT.PAGE where it is their
expansion. -/
def SpinsOn (q : Submission) (i : Instr) : Prop :=
  i = .submitSpin q ∨
    (i = .submitCmd q.address q.pfx q.pfxLen q.cb q.arg ∧ q.data = 0 ∧ q.dataLen = 0 ∧ q.fastFail = false) ∨
    (i = .submitPage q.address q.pfx q.data q.dataLen q.cb q.arg ∧ q.pfxLen = 1 ∧ q.fastFail = false)

theorem cmdSubmission_eq {q : Submission} (data : q.data = 0) (dataLen : q.dataLen = 0) (flag : q.fastFail = false) :
    cmdSubmission q.address q.pfx q.pfxLen q.cb q.arg = q := by
  cases q
  cases data
  cases dataLen
  cases flag
  rfl

theorem pageSubmission_eq {q : Submission} (pfxLen : q.pfxLen = 1) (flag : q.fastFail = false) :
    pageSubmission q.address q.pfx q.data q.dataLen q.cb q.arg = q := by
  cases q
  cases pfxLen
  cases flag
  rfl

theorem exec_of_spinsOn {q : Submission} {i : Instr} (h : SpinsOn q i) (s : State) : exec i s = spin q s := by
  obtain rfl | ⟨rfl, data, dataLen, flag⟩ | ⟨rfl, pfxLen, flag⟩ := h
  · rfl
  · exact congrArg (spin · s) (cmdSubmission_eq data dataLen flag)
  · exact congrArg (spin · s) (pageSubmission_eq pfxLen flag)

theorem spin_of_idle {s : State} {q : Submission} (met : ContractMet s q) (idle : s.state = .idle) :
    spin q s = .next (accept q s) :=
  submitOr_of_idle id _ ((submitFlaw_none_iff_contractMet s q).2 met) idle

theorem spin_of_busy {s : State} {q : Submission} (met : ContractMet s q) (busy : s.state ≠ .idle) :
    spin q s = .next (nextLine s (.line (encode s.par.widths (.submitSpin q)))) := by
  rw [← again_eq_nextLine]
  exact submitOr_of_busy id _ ((submitFlaw_none_iff_contractMet s q).2 met) busy

/-- Settles O17: the one attempt finds the bus in Idle, and `accept` is rule R103 written out. -/
theorem spinInIdleSubmitsItsExpansion : Obligations.SpinInIdleSubmitsItsExpansion := by
  unfold Obligations.SpinInIdleSubmitsItsExpansion
  intro s q met idle i spins
  exact (exec_of_spinsOn spins s).trans (spin_of_idle met idle)

/-- Settles O18: the attempt is rejected, and the spin stands again as a line. -/
theorem spinWhileBusyIsRepeated : Obligations.SpinWhileBusyIsRepeated := by
  unfold Obligations.SpinWhileBusyIsRepeated
  intro s q met busy i spins
  exact (exec_of_spinsOn spins s).trans (spin_of_busy met busy)

/-! ### The address byte (rules R80, R124) -/

theorem addrByte_of_not_listed {p : Params} {a : BitVec 8} (h : ∀ b, (a, b) ∉ p.addrMap) : addrByte p a = a := by
  have notFound : p.addrMap.lookup a = none := by
    rw [List.lookup_eq_none_iff]
    rintro ⟨k, b⟩ listed
    rw [bne_iff_ne]
    rintro rfl
    exact h b listed
  rw [addrByte, notFound, Option.getD_none]

theorem addrByte_of_first {p : Params} {a : BitVec 8} {b : Byte} {before after : List (BitVec 8 × Byte)}
    (entries : p.addrMap = before ++ (a, b) :: after) (first : ∀ c, (a, c) ∉ before) : addrByte p a = b := by
  have found : p.addrMap.lookup a = some b := by
    rw [List.lookup_eq_some_iff]
    refine ⟨before, after, entries, ?_⟩
    rintro ⟨k, c⟩ listed
    rw [bne_iff_ne]
    rintro rfl
    exact first c listed
  rw [addrByte, found, Option.getD_some]

/-- Settles O20: the parameter's list is looked up from its front. -/
theorem addressByteIsTheOperandByDefault : Obligations.AddressByteIsTheOperandByDefault := by
  unfold Obligations.AddressByteIsTheOperandByDefault
  exact fun p a => ⟨addrByte_of_not_listed, fun b before after => addrByte_of_first⟩

end Sys2Proof.Machine
end

section
/-!
PROOFS. COMPLETE by the identifier it names (rules R77, R150, U2, U3), and EVENT of a program as steps of the machine
(rule R87).
-/

namespace Sys2Proof.Machine

/-! ### COMPLETE (rule R150) -/

theorem callRoutine_of_not_listed {s : State} {cb : CbId} (host : 5 ≤ cb) (notListed : s.routines.lookup cb = none)
    (arg : Arg) : callRoutine cb arg s = .refused .notARoutine := by
  have other {k : CbId} (client : k < 5) : cb ≠ k := (Nat.lt_of_lt_of_le client host).ne'
  rw [callRoutine, if_neg (other (k := 0) (by decide)), if_neg (other (k := 1) (by decide)),
    if_neg (other (k := 2) (by decide)), if_neg (other (k := 3) (by decide)), if_neg (other (k := 4) (by decide)),
    notListed]

/-- The invocation's own writes leave the callback table alone. -/
theorem execComplete_of_not_listed {s : State} {cb : CbId} (host : 5 ≤ cb) (notListed : s.routines.lookup cb = none)
    (arg : Arg) : execComplete cb arg s = .refused .notARoutine :=
  callRoutine_of_not_listed (s := { s with complTrace := _, ctx := .handler }) host notListed arg

/-- Settles O32, by cases on the identifier: each client identifier's routine is the meaning of its callback. -/
theorem completeSelectsTheClientCallback : Obligations.CompleteSelectsTheClientCallback := by
  unfold Obligations.CompleteSelectsTheClientCallback
  intro s arg
  refine ⟨?_, rfl, fun cb host notListed => execComplete_of_not_listed host notListed arg⟩
  rintro cb i (⟨rfl, rfl⟩ | ⟨rfl, rfl⟩ | ⟨rfl, rfl⟩ | ⟨rfl, rfl⟩)
  · rfl
  · rfl
  · rfl
  · rfl

/-! ### EVENT (rule R87) -/

/-- START and WRITE raise the event they owe (rule R56). -/
theorem exec_decodeCmd_evPending_of_owing {w : BitVec 10} (owing : Owing w) {s t : State}
    (ran : exec (decodeCmd w) s = .next t) : t.evPending = true := by
  obtain rfl | ⟨b, rfl⟩ := owing
  · injection ran with ran
    exact ran ▸ rfl
  · rw [decodeCmd_writeWord] at ran
    injection ran with ran
    exact ran ▸ rfl

theorem runEngine_of_queued {s : State} {c : Command} {rest : List Command} (queued : s.cmdq = c :: rest) :
    runEngine s = exec (decodeCmd c.word) { s with cmdq := rest } := by
  simp only [runEngine, queued]

/-- EVENT with one command outstanding: the bus engine's move, then the handler's if an event is pending. -/
theorem event_of_one_command {s t : State} {c : Command} (queued : s.cmdq = [c]) (ran : runEngine s = .next t)
    (pending : t.evPending = true) : event s = runHandler t := by
  simp [event, queued, finishAll, ran, andThen, pending]

/-- Settles O59: of the agents the bus engine alone can move first, and after it, with the event pending and no
command left, the handler alone. -/
theorem eventIsTwoSteps : Obligations.EventIsTwoSteps := by
  unfold Obligations.EventIsTwoSteps
  intro s t c ctx noLine noEvent queued live owing first
  obtain ⟨w, stalls⟩ := c
  obtain rfl : stalls = false := live
  rw [step_engine_alone ctx noEvent noLine queued] at first
  obtain ⟨sameCtx, sameMain, -, -⟩ := exec_decodeCmd_frame first
  obtain ⟨-, outstanding, -⟩ := exec_decodeCmd_wires first
  have pending : t.evPending = true := exec_decodeCmd_evPending_of_owing owing first
  have noCommand : engineReady t = false := by simp [engineReady, outstanding]
  rw [step_handler_alone (sameCtx.trans ctx) pending noCommand (sameMain.trans noLine) (decode_stateCode _ _),
    ← runHandler_eq]
  exact event_of_one_command queued ((runEngine_of_queued queued).trans first) pending

end Sys2Proof.Machine
end

section
/-!
PROOFS. SUBMIT on either port (rules R103 to R107, R112), and the free choice between a pending event and main-line's
next line (rules R111, R215).
-/

namespace Sys2Proof.Machine

/-! ### SUBMIT (rules R103, R104, R105, R107, R112) -/

/-- Settles O12: clause by clause, the check and the contract look at the same things. -/
theorem submissionIsAdmittedIffContractMet : Obligations.SubmissionIsAdmittedIffContractMet := by
  unfold Obligations.SubmissionIsAdmittedIffContractMet
  exact submitFlaw_none_iff_contractMet

/-- SUBMIT on either port is one attempt, which repeats its own word where it blocks. -/
theorem exec_of_submits {q : Submission} {i : Instr} (h : i = .submit q ∨ i = .submitHost q) (s : State) :
    exec i s = submitOnce i q s := by
  obtain rfl | rfl := h
  · rfl
  · rfl

theorem submitOnce_of_idle {s : State} {q : Submission} (met : ContractMet s q) (idle : s.state = .idle)
    (self : Instr) : submitOnce self q s = .next ((accept q s).answerWith .ok) :=
  submitOr_of_idle _ _ ((submitFlaw_none_iff_contractMet s q).2 met) idle

theorem submitOnce_of_busy {s : State} {q : Submission} (met : ContractMet s q) (busy : s.state ≠ .idle)
    (self : Instr) :
    submitOnce self q s = .next (if blocks q s then s.again self else s.answerWith .busy) :=
  submitOr_of_busy _ _ ((submitFlaw_none_iff_contractMet s q).2 met) busy

theorem blocks_iff (q : Submission) (s : State) :
    blocks q s = true ↔ s.par.fastFail0Blocks = true ∧ q.fastFail = false := by
  simp [blocks]

theorem blocks_eq_false_iff (q : Submission) (s : State) :
    blocks q s = false ↔ s.par.fastFail0Blocks = false ∨ q.fastFail = true := by
  rw [blocks, Bool.and_eq_false_iff, Bool.not_eq_false']

/-- Rule R104: a busy SUBMIT that does not block answers 0 and does nothing else. -/
theorem submitOnce_of_rejected {s : State} {q : Submission} (met : ContractMet s q) (busy : s.state ≠ .idle)
    (returns : blocks q s = false) (self : Instr) : submitOnce self q s = .next (s.answerWith .busy) := by
  simp only [submitOnce_of_busy met busy, returns, Bool.false_eq_true, if_false]

/-- Rule R107: a busy SUBMIT that blocks is the next line again. -/
theorem submitOnce_of_blocked {s : State} {q : Submission} (met : ContractMet s q) (busy : s.state ≠ .idle)
    (holds : blocks q s = true) (self : Instr) :
    submitOnce self q s = .next (nextLine s (.line (encode s.par.widths self))) := by
  simp only [submitOnce_of_busy met busy, holds, if_true, again_eq_nextLine]

/-- Settles O13: the one attempt finds the bus in Idle, and `accept` is rule R103 written out. -/
theorem acceptedSubmitCapturesAndStarts : Obligations.AcceptedSubmitCapturesAndStarts := by
  unfold Obligations.AcceptedSubmitCapturesAndStarts
  intro s q met idle i submits
  exact (exec_of_submits submits s).trans (submitOnce_of_idle met idle i)

/-- Settles O14: the attempt finds the bus busy and does not block. -/
theorem rejectedSubmitChangesNothing : Obligations.RejectedSubmitChangesNothing := by
  unfold Obligations.RejectedSubmitChangesNothing
  intro s q met busy returns i submits
  exact (exec_of_submits submits s).trans
    (submitOnce_of_rejected met busy ((blocks_eq_false_iff q s).2 returns) i)

/-- Settles O15: the attempt finds the bus busy and blocks; what it repeats is the word of its own port. -/
theorem blockingSubmitIsRepeated : Obligations.BlockingSubmitIsRepeated := by
  unfold Obligations.BlockingSubmitIsRepeated
  intro s q met busy parameter flag
  have holds : blocks q s = true := (blocks_iff q s).2 ⟨parameter, flag⟩
  exact ⟨submitOnce_of_blocked met busy holds (.submit q), submitOnce_of_blocked met busy holds (.submitHost q)⟩

theorem submitOnce_of_not_contractMet {s : State} {q : Submission} (h : ¬ContractMet s q) (self : Instr) :
    ∃ f, submitOnce self q s = .refused (.illFormedSubmission f) :=
  submitOr_of_not_contractMet _ _ h

theorem spin_of_not_contractMet {s : State} {q : Submission} (h : ¬ContractMet s q) :
    ∃ f, spin q s = .refused (.illFormedSubmission f) :=
  submitOr_of_not_contractMet _ _ h

/-- Settles O16: each of these operations looks at the contract before it looks at `state`. -/
theorem illFormedSubmissionIsRefused : Obligations.IllFormedSubmissionIsRefused := by
  unfold Obligations.IllFormedSubmissionIsRefused
  rintro s q illFormed i (port | host | spins)
  · rw [exec_of_submits (.inl port)]
    exact submitOnce_of_not_contractMet illFormed i
  · rw [exec_of_submits (.inr host)]
    exact submitOnce_of_not_contractMet illFormed i
  · rw [exec_of_spinsOn spins]
    exact spin_of_not_contractMet illFormed

/-! ### A pending event and a main-line line (rules R111, R215) -/

/-- Of two agents that can move, an even free value picks the first and an odd one the second. -/
theorem step_of_two_ready {s : State} {a b : Agent} (h : ready s = [a, b]) :
    step s = if Config.turn s.freeIx % 2 = 0 then move a s.bump else move b s.bump := by
  simp only [step, moveOne, h, List.length_nil, Nat.zero_add]
  obtain even | odd := Nat.mod_two_eq_zero_or_one (Config.turn s.freeIx)
  · rw [even]
    rfl
  · rw [odd]
    rfl

/-- Settles O6: the handler and main-line are the two agents that can move, in this order. -/
theorem pendingEventAndMainlineInEitherOrder : Obligations.PendingEventAndMainlineInEitherOrder := by
  unfold Obligations.PendingEventAndMainlineInEitherOrder
  intro s ctx event line noCommand
  have handlerOrMainline : ready s = [.handler, .mainline] := by simp [ready, ctx, event, line, noCommand]
  exact step_of_two_ready handlerOrMainline

end Sys2Proof.Machine
end

section
/-!
PROOFS. The event steps (rules R121 to R126): each written out as the state it leads to, and the end of a transaction
as STOP, Idle and the invocation of the callback (rules R122, R150, U2, U3).
-/

namespace Sys2Proof.Machine

/-! ### The steps that write a byte (rules R124 to R126) -/

theorem afterAddress_eq {r : Req} {next : BusState}
    (h : (r.prefixRem = 0 ∧ r.dataRem = 0 ∧ next = .stop) ∨ (r.prefixRem = 0 ∧ r.dataRem ≠ 0 ∧ next = .writeByte) ∨
      (r.prefixRem ≠ 0 ∧ next = .writePrefix)) : afterAddress r = next := by
  obtain ⟨noPrefix, noData, rfl⟩ | ⟨noPrefix, hasData, rfl⟩ | ⟨hasPrefix, rfl⟩ := h
  · simp [afterAddress, noPrefix, noData]
  · simp [afterAddress, noPrefix, hasData]
  · simp [afterAddress, hasPrefix]

theorem afterPrefix_eq {r : Req} {next : BusState}
    (h : (r.prefixRem ≠ 0 ∧ next = .writePrefix) ∨ (r.prefixRem = 0 ∧ r.dataRem ≠ 0 ∧ next = .writeByte) ∨
      (r.prefixRem = 0 ∧ r.dataRem = 0 ∧ next = .stop)) : afterPrefix r = next := by
  obtain ⟨hasPrefix, rfl⟩ | ⟨noPrefix, hasData, rfl⟩ | ⟨noPrefix, noData, rfl⟩ := h
  · simp [afterPrefix, hasPrefix]
  · simp [afterPrefix, noPrefix, hasData]
  · simp [afterPrefix, noPrefix, noData]

theorem afterData_eq {r : Req} {next : BusState}
    (h : (r.dataRem ≠ 0 ∧ next = .writeByte) ∨ (r.dataRem = 0 ∧ next = .stop)) : afterData r = next := by
  obtain ⟨hasData, rfl⟩ | ⟨noData, rfl⟩ := h
  · simp [afterData, hasData]
  · simp [afterData, noData]

/-- Settles O19: the WRITE of the address byte is handed over, and the runs that are present select the state. -/
theorem addressStepWritesAddressAndSelectsRun : Obligations.AddressStepWritesAddressAndSelectsRun := by
  unfold Obligations.AddressStepWritesAddressAndSelectsRun
  intro s next runs
  rw [← afterAddress_eq runs, ← writeWord_eq]
  rfl

/-- Settles O21: the count after the decrement is that of `stepPrefix`, and it selects the state. -/
theorem prefixStepSendsOneByte : Obligations.PrefixStepSendsOneByte := by
  unfold Obligations.PrefixStepSendsOneByte
  refine ⟨fun W => decode_stateCode W .writePrefix, ?_⟩
  intro s rem next count runs
  rw [← subMod_one] at count
  subst count
  rw [← afterPrefix_eq (r := stepPrefix s.par.widths s.req) runs, ← writeWord_eq]
  rfl

/-- Settles O22: the count after the decrement is that of `stepData`, and it selects the state. -/
theorem payloadStepSendsOneByte : Obligations.PayloadStepSendsOneByte := by
  unfold Obligations.PayloadStepSendsOneByte
  refine ⟨fun W => decode_stateCode W .writeByte, ?_⟩
  intro s rem next count runs
  rw [← subMod_one] at count
  subst count
  rw [← afterData_eq (r := stepData s.par.widths s.req) runs, ← writeWord_eq]
  rfl

/-! ### The end of a transaction (rules R121, R122, R150) -/

/-- Settles O24: both event steps are the one finish-and-notify path, whose invocation is COMPLETE's. -/
theorem endOfTransactionIsStopThenComplete : Obligations.EndOfTransactionIsStopThenComplete := by
  unfold Obligations.EndOfTransactionIsStopThenComplete
  rintro s i (rfl | rfl)
  · rfl
  · rfl

/-- A routine of the host's own table has its lines to run, bound to the argument (rule R150). -/
theorem callRoutine_of_listed {s : State} {cb : CbId} {body : List HostAct} (host : 5 ≤ cb)
    (listed : s.routines.lookup cb = some body) (arg : Arg) :
    callRoutine cb arg s = .next { s with todo := body.map (bindArg s.par.widths arg) ++ s.todo } := by
  have other {k : CbId} (client : k < 5) : cb ≠ k := (Nat.lt_of_lt_of_le client host).ne'
  rw [callRoutine, if_neg (other (k := 0) (by decide)), if_neg (other (k := 1) (by decide)),
    if_neg (other (k := 2) (by decide)), if_neg (other (k := 3) (by decide)), if_neg (other (k := 4) (by decide)),
    listed]

/-- The invocation's own writes leave the callback table alone. -/
theorem execComplete_of_listed {s : State} {cb : CbId} {body : List HostAct} (host : 5 ≤ cb)
    (listed : s.routines.lookup cb = some body) (arg : Arg) :
    execComplete cb arg s = .next
      { s with
        complTrace := s.complTrace ++ [{ cb := cb, arg := arg }]
        ctx := .handler
        todo := body.map (bindArg s.par.widths arg) ++ s.todo } :=
  callRoutine_of_listed (s := { s with complTrace := _, ctx := .handler }) host listed arg

/-- Settles O23: STOP and Idle, then COMPLETE of CB.NOP or of the host's routine. -/
theorem endOfTransactionStopsAndInvokes : Obligations.EndOfTransactionStopsAndInvokes := by
  unfold Obligations.EndOfTransactionStopsAndInvokes
  intro s i ends
  rw [endOfTransactionIsStopThenComplete s i ends]
  refine ⟨fun nop => ?_, fun body host listed => ?_⟩
  · rw [nop]
    rfl
  · exact execComplete_of_listed (s := s.busStop.setPhase .idle) host listed s.req.cbArg

/-- Settles O25: COMPLETE of `NONE`, and of an identifier that the host's table does not hold. -/
theorem invokingNoRoutineStops : Obligations.InvokingNoRoutineStops := by
  unfold Obligations.InvokingNoRoutineStops
  intro s i ends
  rw [endOfTransactionIsStopThenComplete s i ends]
  refine ⟨fun noCallback => ?_, fun host notListed => ?_⟩
  · rw [noCallback]
    rfl
  · exact execComplete_of_not_listed (s := s.busStop.setPhase .idle) host notListed s.req.cbArg

end Sys2Proof.Machine
end

section
/-!
PROOFS. How the last bus command ended enters no operation (rules R63, R129, R207).
-/

namespace Sys2Proof.Machine

/-- The state with another ending of the last bus command. -/
def State.withStatus (s : State) (b : BusStatus) : State :=
  { s with status := b }

/-- An operation that carries the ending of the last bus command along and does nothing else with it. -/
def PassesStatus (f : State → Res) : Prop :=
  ∀ s b, f (s.withStatus b) = onNext (·.withStatus b) (f s)

theorem again_withStatus (s : State) (b : BusStatus) (i : Instr) :
    (s.withStatus b).again i = (s.again i).withStatus b := by
  unfold State.again
  cases hc : s.ctx <;> simp [State.withStatus, hc]

/-- A submission passes the status on where both of its outcomes do: the caller contract does not look at it. -/
theorem submitOr_passesStatus (q : Submission) {ok busy : State → State}
    (hok : ∀ s b, ok (s.withStatus b) = (ok s).withStatus b)
    (hbusy : ∀ s b, busy (s.withStatus b) = (busy s).withStatus b) : PassesStatus (submitOr q ok busy) := by
  intro s b
  have sameFlaw : submitFlaw (s.withStatus b) q = submitFlaw s q := submitFlaw_congr q rfl rfl
  cases flaw : submitFlaw s q with
  | some f =>
    rw [submitOr_of_flaw ok busy flaw, submitOr_of_flaw ok busy (sameFlaw.trans flaw)]
    rfl
  | none =>
    by_cases idle : s.state = .idle
    · rw [submitOr_of_idle ok busy flaw idle, submitOr_of_idle ok busy (sameFlaw.trans flaw) idle]
      exact congrArg Host.Outcome.next (hok (accept q s) b)
    · rw [submitOr_of_busy ok busy flaw idle, submitOr_of_busy ok busy (sameFlaw.trans flaw) idle]
      exact congrArg Host.Outcome.next (hbusy s b)

theorem spin_passesStatus (q : Submission) : PassesStatus (spin q) :=
  submitOr_passesStatus q (fun _ _ => rfl) fun s b => again_withStatus s b _

theorem submitOnce_passesStatus (self : Instr) (q : Submission) : PassesStatus (submitOnce self q) := by
  refine submitOr_passesStatus q (fun _ _ => rfl) fun s b => ?_
  have sameChoice : blocks q (s.withStatus b) = blocks q s := rfl
  rw [sameChoice]
  split
  · exact again_withStatus s b self
  · rfl

theorem initSubmit_passesStatus (d : Arg) (busAddr : BitVec 8) : PassesStatus (initSubmit d busAddr) :=
  fun s => submitOr_passesStatus (initSubmission s.par d busAddr) (fun _ _ => rfl) (fun _ _ => rfl) s

theorem selectPage_passesStatus (d : Arg) : PassesStatus (selectPage d) :=
  fun s => spin_passesStatus (selectSubmission s.par d (s.display d)) (patchSelect d s)

theorem selectDone_passesStatus (d : Arg) : PassesStatus (selectDone d) :=
  fun s => spin_passesStatus (xferSubmission s.par d (s.display d)) s

theorem nextPage_passesStatus (d : Arg) : PassesStatus (nextPage d) := by
  intro s b
  have sameRecord : (s.withStatus b).display d = s.display d := rfl
  rw [nextPage, nextPage, sameRecord]
  split
  · rfl
  · exact selectPage_passesStatus d s b

theorem xferDone_passesStatus (d : Arg) : PassesStatus (xferDone d) :=
  fun s => nextPage_passesStatus d (setCursor d ((s.display d).cursor + 1) s)

theorem callRoutine_passesStatus (cb : CbId) (arg : Arg) : PassesStatus (callRoutine cb arg) := by
  intro s b
  have sameTable : (s.withStatus b).routines = s.routines := rfl
  unfold callRoutine
  rw [sameTable]
  split_ifs
  · rfl
  · rfl
  · rfl
  · exact selectDone_passesStatus arg s b
  · exact xferDone_passesStatus arg s b
  · cases s.routines.lookup cb with
    | none => rfl
    | some body => rfl

theorem invoke_passesStatus (cb : CbId) (arg : Arg) : PassesStatus (invoke cb arg) :=
  fun s => callRoutine_passesStatus cb arg
    { s with complTrace := s.complTrace ++ [{ cb := cb, arg := arg }], ctx := .handler }

theorem finishTransaction_passesStatus : PassesStatus finishTransaction :=
  fun s => invoke_passesStatus s.req.cb s.req.cbArg (s.busStop.setPhase .idle)

/-- A test of the lock, and two outcomes that pass the status on. -/
theorem execLockAcquire_passesStatus (d : Arg) : PassesStatus (execLockAcquire d) := by
  intro s b
  have sameRecord : (s.withStatus b).display d = s.display d := rfl
  rw [execLockAcquire, execLockAcquire, sameRecord]
  split
  · exact congrArg Host.Outcome.next (again_withStatus s b _)
  · rfl

theorem execLockTry_passesStatus (d : Arg) : PassesStatus (execLockTry d) := by
  intro s b
  have sameRecord : (s.withStatus b).display d = s.display d := rfl
  rw [execLockTry, execLockTry, sameRecord]
  split
  · rfl
  · rfl

theorem execDisplayInit_passesStatus (d : Arg) (width height : Nat) (fb : Addr) (freq : Nat) (busAddr : BitVec 8) :
    PassesStatus (execDisplayInit d width height fb freq busAddr) := by
  intro s b
  have samePar : (s.withStatus b).par = s.par := rfl
  rw [execDisplayInit, execDisplayInit, samePar]
  split
  · exact initSubmit_passesStatus d busAddr (fillDisplay d width height fb freq busAddr s) b
  · rfl

theorem execBrightnessSet_passesStatus (d : Arg) (level : Byte) : PassesStatus (execBrightnessSet d level) := by
  intro s b
  have sameRecord : (s.withStatus b).display d = s.display d := rfl
  rw [execBrightnessSet, execBrightnessSet, sameRecord]
  split
  · exact congrArg Host.Outcome.next (again_withStatus s b _)
  · exact spin_passesStatus (brightSubmission s.par d ((claim d s).display d)) (patchBright level (claim d s)) b

/-- Every operation but the bus engine's own commands passes the status on. -/
theorem exec_passesStatus {i : Instr} (notCommand : i.format ≠ .cmd) : PassesStatus (exec i) := by
  cases i with
  | busNone | busStart | busWrite | busStop => exact absurd rfl notCommand
  | evIdle | evStop => exact finishTransaction_passesStatus
  | complete cb arg => exact invoke_passesStatus cb arg
  | evSlaveAddress | evWritePrefix | evWriteByte | cbNop | cbRelease | lockRelease => exact fun s b => rfl
  | submit q => exact submitOnce_passesStatus (.submit q) q
  | submitHost q => exact submitOnce_passesStatus (.submitHost q) q
  | cbSelectDone d => exact selectDone_passesStatus d
  | cbXferDone d => exact xferDone_passesStatus d
  | lockAcquire d => exact execLockAcquire_passesStatus d
  | lockTry d => exact execLockTry_passesStatus d
  | displayInit d width height fb freq busAddr => exact execDisplayInit_passesStatus d width height fb freq busAddr
  | refreshStart d => exact fun s => selectPage_passesStatus d (setCursor d 0 s)
  | brightnessSet d level => exact execBrightnessSet_passesStatus d level
  | submitSpin q => exact spin_passesStatus q
  | submitCmd address buf n cb arg => exact spin_passesStatus (cmdSubmission address buf n cb arg)
  | submitPage address pfx buf n cb arg => exact spin_passesStatus (pageSubmission address pfx buf n cb arg)

/-- The bus engine's commands overwrite the status without reading it, but for the empty one, which leaves it. -/
theorem exec_cmd_withStatus {i : Instr} (command : i.format = .cmd) (s : State) (b c : BusStatus) :
    onNext (·.withStatus c) (exec i (s.withStatus b)) = onNext (·.withStatus c) (exec i s) := by
  cases i with
  | busNone | busStart | busWrite | busStop => rfl
  | _ => cases command

theorem onNext_withStatus_withStatus (o : Res) (b c : BusStatus) :
    onNext (·.withStatus c) (onNext (·.withStatus b) o) = onNext (·.withStatus c) o := by
  cases o with
  | next t => rfl
  | fault r => rfl
  | refused r => rfl

/-- Settles O26: a bus command overwrites the status, and every other operation passes it on. -/
theorem noOperationReadsTheBusStatus : Obligations.NoOperationReadsTheBusStatus := by
  unfold Obligations.NoOperationReadsTheBusStatus
  intro i s b
  by_cases command : i.format = .cmd
  · exact exec_cmd_withStatus command s b .acknowledged
  · have passes : exec i (s.withStatus b) = onNext (·.withStatus b) (exec i s) := exec_passesStatus command s b
    exact (congrArg (onNext (·.withStatus .acknowledged)) passes).trans
      (onNext_withStatus_withStatus (exec i s) b .acknowledged)

end Sys2Proof.Machine
end

section
/-!
PROOFS. One transaction from its acceptance to its completion (rules R61, R79, R127, R128): EVENT after EVENT the bytes
of its runs are sent in order, then the end of the transaction invokes the callback.
-/

namespace Sys2Proof.Machine

/-! ### EVENT with a command outstanding (rules R56, R59, R87) -/

/-- A command that owes an event is outstanding, last, after at most one STOP (rule R214). -/
def Commanded (s : State) : Prop :=
  ∃ w, Owing w ∧ (s.cmdq.map Command.word = [w] ∨ s.cmdq.map Command.word = [stopWord, w])

/-- The state in which the handler runs its event step once the bus engine has finished its commands. -/
def State.served (s : State) (wires : List Sym) (status : BusStatus) (n : Nat) : State :=
  { s with evPending := false, ctx := .handler, cmdq := [], wires := wires, status := status, freeIx := n }

theorem runEngine_of_stop {s : State} {c : Command} {rest : List Command} (queued : s.cmdq = c :: rest)
    (stops : c.word = stopWord) : runEngine s = .next (State.performed { s with cmdq := rest } .stop) := by
  rw [runEngine_of_queued queued, stops]
  rfl

theorem runEngine_of_owing {s : State} {c : Command} {rest : List Command} (queued : s.cmdq = c :: rest)
    (owing : Owing c.word) : ∃ y, runEngine s = .next (State.performed { s with cmdq := rest } y).raiseEvent := by
  rw [runEngine_of_queued queued]
  obtain start | ⟨b, write⟩ := owing
  · rw [start]
    exact ⟨.start, rfl⟩
  · rw [write, decodeCmd_writeWord]
    exact ⟨.write b, rfl⟩

theorem finishAll_of_commanded {s : State} (h : Commanded s) :
    ∃ wires status n, finishAll s.cmdq.length s = .next
      { s with evPending := true, cmdq := [], wires := wires, status := status, freeIx := n } := by
  obtain ⟨w, owing, one | two⟩ := h
  · obtain ⟨c, queued, rfl⟩ := List.map_eq_singleton_iff.1 one
    obtain ⟨y, ran⟩ := runEngine_of_owing queued owing
    refine ⟨s.wires ++ [y], Config.busStatus s.freeIx, s.freeIx + 1, ?_⟩
    calc finishAll s.cmdq.length s = andThen (runEngine s) (finishAll 0) := by rw [queued]; rfl
      _ = _ := by rw [ran]; rfl
  · obtain ⟨stop, rest, queued, stops, last⟩ := List.map_eq_cons_iff.1 two
    obtain ⟨c, rfl, rfl⟩ := List.map_eq_singleton_iff.1 last
    have ranStop := runEngine_of_stop queued stops
    obtain ⟨y, ran⟩ := runEngine_of_owing (s := State.performed { s with cmdq := [c] } .stop) rfl owing
    refine ⟨s.wires ++ [.stop] ++ [y], Config.busStatus (s.freeIx + 1), s.freeIx + 1 + 1, ?_⟩
    calc finishAll s.cmdq.length s = andThen (runEngine s) (finishAll 1) := by rw [queued]; rfl
      _ = andThen (runEngine (State.performed { s with cmdq := [c] } .stop)) (finishAll 0) := by rw [ranStop]; rfl
      _ = _ := by rw [ran]; rfl

/-- EVENT: the bus engine finishes, and the handler runs the event step that `state` selects. -/
theorem event_of_commanded {s : State} (h : Commanded s) :
    ∃ wires status n, event s = onNext closeWindow (exec (eventInstr s.state) (s.served wires status n)) := by
  obtain ⟨wires, status, n, ran⟩ := finishAll_of_commanded h
  refine ⟨wires, status, n, ?_⟩
  rw [event, ran]
  exact runHandler_eq _

/-- An event step that leaves no callback line ends EVENT with the return from the handler (rule R213). -/
theorem onNext_closeWindow_of_empty {u : State} (noLine : u.todo = []) :
    onNext closeWindow (.next u) = .next (handlerReturn u) :=
  congrArg Host.Outcome.next (closeWindow_of_empty u noLine)

/-! ### The bytes still to send (rules R43, R45, R79) -/

/-- The addresses of the bytes that the registers have still to send, in order. -/
def toSend (r : Req) : List Addr :=
  List.range' r.prefixPtr r.prefixRem ++ List.range' r.dataPtr r.dataRem

/-- The symbol of the byte at an address. -/
def byteSym (p : Params) (mem : List Host.Cell) (a : Addr) : Sym :=
  .write (Memory.read p mem a)

theorem toSend_reqOf (q : Submission) :
    toSend (reqOf q) = (List.range q.pfxLen).map (q.pfx + ·) ++ (List.range q.dataLen).map (q.data + ·) := by
  simp only [toSend, reqOf, List.range'_eq_map_range]

theorem length_toSend (r : Req) : (toSend r).length = r.prefixRem + r.dataRem := by
  simp [toSend]

theorem toSend_eq_nil_iff (r : Req) : toSend r = [] ↔ r.prefixRem = 0 ∧ r.dataRem = 0 := by
  simp [toSend]

/-- A frame is start, the address byte, the bytes to send at acceptance, stop (rule R79). -/
theorem frame_eq (p : Params) (mem : List Host.Cell) (q : Submission) :
    frame p mem q =
      [.start, .write (addrByte p q.address)] ++ (toSend (reqOf q)).map (byteSym p mem) ++ [.stop] := by
  simp [frame, toSend_reqOf, byteSym, Function.comp_def]

/-- A run whose cursor and count are stepped has its first byte behind it; a cursor that wraps has no byte left. -/
theorem range'_step {n k ptr rem : Nat} (hrem : rem < 2 ^ k) (hpos : 1 ≤ rem) (hb : ptr + rem ≤ 2 ^ n) :
    List.range' ptr rem = ptr :: List.range' (addMod n ptr 1) (subMod k rem 1) := by
  obtain ⟨left, rfl⟩ := Nat.exists_eq_add_of_le' hpos
  rw [subMod_one_of_pos hrem hpos, Nat.add_sub_cancel, List.range'_succ]
  obtain rfl | more := Nat.eq_zero_or_pos left
  · rfl
  · rw [addMod, Nat.mod_eq_of_lt (by omega)]

theorem toSend_stepPrefix {s : State} (counts : CountsFit s) (left : 1 ≤ s.req.prefixRem) :
    toSend s.req = s.req.prefixPtr :: toSend (stepPrefix s.par.widths s.req) := by
  obtain ⟨⟨-, prefixRem, -⟩, prefixEnd, -⟩ := counts
  rw [toSend, range'_step prefixRem left prefixEnd]
  rfl

theorem toSend_stepData {s : State} (counts : CountsFit s) (noPrefix : s.req.prefixRem = 0)
    (left : 1 ≤ s.req.dataRem) : toSend s.req = s.req.dataPtr :: toSend (stepData s.par.widths s.req) := by
  obtain ⟨⟨-, -, -, dataRem, -⟩, -, dataEnd, -⟩ := counts
  rw [toSend, range'_step dataRem left dataEnd, noPrefix]
  simp [toSend, stepData, noPrefix]

/-- The counts select the state after a byte of either run as they do after the address byte. -/
theorem afterPrefix_eq_afterAddress (r : Req) : afterPrefix r = afterAddress r := by
  unfold afterPrefix afterAddress
  by_cases noPrefix : r.prefixRem = 0 <;> by_cases noData : r.dataRem = 0 <;> simp [noPrefix, noData]

theorem afterData_eq_afterAddress {r : Req} (noPrefix : r.prefixRem = 0) : afterData r = afterAddress r := by
  simp [afterData, afterAddress, noPrefix]

/-! ### A transaction in flight -/

/-- What a part of a transaction does: it commands symbols and reads bytes, and leaves the host's side alone. -/
structure Progress (s : State) (symbols : List Sym) (reads : List Addr) (t : State) : Prop where
  par        : t.par = s.par
  routines   : t.routines = s.routines
  displays   : t.displays = s.displays
  mem        : t.mem = s.mem
  cb         : t.req.cb = s.req.cb
  cbArg      : t.req.cbArg = s.req.cbArg
  complTrace : t.complTrace = s.complTrace
  wireTrace  : t.wireTrace = s.wireTrace ++ symbols
  readTrace  : t.readTrace = s.readTrace ++ reads

theorem Progress.refl (s : State) : Progress s [] [] s :=
  ⟨rfl, rfl, rfl, rfl, rfl, rfl, rfl, (List.append_nil _).symm, (List.append_nil _).symm⟩

theorem Progress.trans {s t u : State} {symbols symbols' : List Sym} {reads reads' : List Addr}
    (h : Progress s symbols reads t) (h' : Progress t symbols' reads' u) :
    Progress s (symbols ++ symbols') (reads ++ reads') u where
  par := h'.par.trans h.par
  routines := h'.routines.trans h.routines
  displays := h'.displays.trans h.displays
  mem := h'.mem.trans h.mem
  cb := h'.cb.trans h.cb
  cbArg := h'.cbArg.trans h.cbArg
  complTrace := h'.complTrace.trans h.complTrace
  wireTrace := by rw [h'.wireTrace, h.wireTrace, List.append_assoc]
  readTrace := by rw [h'.readTrace, h.readTrace, List.append_assoc]

/-- Between two events of a transaction: the counts fit, a command that owes an event is outstanding, and no callback
is running. -/
structure InTransaction (s : State) : Prop where
  counts    : CountsFit s
  commanded : Commanded s
  todo      : s.todo = []

/-- The address byte has been commanded: the counts alone select the state. -/
structure Sending (s : State) : Prop extends InTransaction s where
  phase : s.state = afterAddress s.req

theorem Sending.not_idle {s : State} (h : Sending s) : s.state ≠ .idle := by
  rw [h.phase, afterAddress]
  split_ifs <;> decide

/-- EVENT in SlaveAddress sends the address byte (rule R124). -/
theorem event_sends_address {s : State} (h : InTransaction s) (phase : s.state = .slaveAddress) :
    ∃ t, event s = .next t ∧ Progress s [.write (addrByte s.par s.req.address)] [] t ∧ Sending t ∧ t.req = s.req := by
  obtain ⟨wires, status, n, ran⟩ := event_of_commanded h.commanded
  rw [phase] at ran
  have counts := execEvSlaveAddress_countsFit (s := s.served wires status n) rfl h.counts
  refine ⟨_, ran.trans (onNext_closeWindow_of_empty h.todo), ?_, ⟨⟨counts, ?_, h.todo⟩, rfl⟩, rfl⟩
  · exact ⟨rfl, rfl, rfl, rfl, rfl, rfl, rfl, rfl, (List.append_nil _).symm⟩
  · exact ⟨_, .inr ⟨_, rfl⟩, .inl rfl⟩

/-- EVENT in WritePrefix sends the byte at `prefixPtr` (rule R125). -/
theorem event_sends_prefix {s : State} (h : InTransaction s) (phase : s.state = .writePrefix) :
    ∃ t, event s = .next t ∧ Progress s [byteSym s.par s.mem s.req.prefixPtr] [s.req.prefixPtr] t ∧ Sending t ∧
      t.req = stepPrefix s.par.widths s.req := by
  obtain ⟨-, -, -, left⟩ := (countsFit_iff s).1 h.counts
  rw [phase] at left
  obtain ⟨wires, status, n, ran⟩ := event_of_commanded h.commanded
  rw [phase] at ran
  have counts := execEvWritePrefix_countsFit (s := s.served wires status n) rfl h.counts left
  refine ⟨_, ran.trans (onNext_closeWindow_of_empty h.todo), ?_, ⟨⟨counts, ?_, h.todo⟩, ?_⟩, rfl⟩
  · exact ⟨rfl, rfl, rfl, rfl, rfl, rfl, rfl, rfl, rfl⟩
  · exact ⟨_, .inr ⟨_, rfl⟩, .inl rfl⟩
  · exact afterPrefix_eq_afterAddress _

/-- EVENT in WriteByte sends the byte at `dataPtr` (rule R126). -/
theorem event_sends_payload {s : State} (h : InTransaction s) (phase : s.state = .writeByte) :
    ∃ t, event s = .next t ∧ Progress s [byteSym s.par s.mem s.req.dataPtr] [s.req.dataPtr] t ∧ Sending t ∧
      t.req = stepData s.par.widths s.req := by
  obtain ⟨-, -, -, table⟩ := (countsFit_iff s).1 h.counts
  rw [phase] at table
  obtain ⟨noPrefix, left⟩ := table
  obtain ⟨wires, status, n, ran⟩ := event_of_commanded h.commanded
  rw [phase] at ran
  have counts := execEvWriteByte_countsFit (s := s.served wires status n) rfl h.counts noPrefix left
  refine ⟨_, ran.trans (onNext_closeWindow_of_empty h.todo), ?_, ⟨⟨counts, ?_, h.todo⟩, ?_⟩, rfl⟩
  · exact ⟨rfl, rfl, rfl, rfl, rfl, rfl, rfl, rfl, rfl⟩
  · exact ⟨_, .inr ⟨_, rfl⟩, .inl rfl⟩
  · exact afterData_eq_afterAddress noPrefix

/-- EVENT with bytes left sends the first of them. -/
theorem event_sends_byte {s : State} (h : Sending s) {a : Addr} {rest : List Addr} (left : toSend s.req = a :: rest) :
    ∃ t, event s = .next t ∧ Progress s [byteSym s.par s.mem a] [a] t ∧ Sending t ∧ toSend t.req = rest := by
  by_cases noPrefix : s.req.prefixRem = 0
  · have hasData : s.req.dataRem ≠ 0 := fun noData => by
      rw [(toSend_eq_nil_iff _).2 ⟨noPrefix, noData⟩] at left
      cases left
    have phase : s.state = .writeByte := h.phase.trans (afterAddress_eq (.inr (.inl ⟨noPrefix, hasData, rfl⟩)))
    obtain ⟨t, ran, progress, sending, req⟩ := event_sends_payload h.toInTransaction phase
    rw [toSend_stepData h.counts noPrefix (Nat.one_le_iff_ne_zero.2 hasData)] at left
    obtain ⟨rfl, rfl⟩ := List.cons.inj left
    exact ⟨t, ran, progress, sending, congrArg toSend req⟩
  · have phase : s.state = .writePrefix := h.phase.trans (afterAddress_eq (.inr (.inr ⟨noPrefix, rfl⟩)))
    obtain ⟨t, ran, progress, sending, req⟩ := event_sends_prefix h.toInTransaction phase
    rw [toSend_stepPrefix h.counts (Nat.one_le_iff_ne_zero.2 noPrefix)] at left
    obtain ⟨rfl, rfl⟩ := List.cons.inj left
    exact ⟨t, ran, progress, sending, congrArg toSend req⟩

/-- As many EVENTs as there are addresses in front send the bytes there, in order. -/
theorem events_send_bytes {s : State} (h : Sending s) {sent rest : List Addr} (left : toSend s.req = sent ++ rest) :
    ∃ t, events sent.length s = .next t ∧ Progress s (sent.map (byteSym s.par s.mem)) sent t ∧ Sending t ∧
      toSend t.req = rest := by
  induction sent generalizing s with
  | nil => exact ⟨s, rfl, .refl s, h, left⟩
  | cons a sent ih =>
    obtain ⟨t, first, one, sending, leftAfter⟩ := event_sends_byte h left
    obtain ⟨u, more, others, done⟩ := ih sending leftAfter
    rw [one.par, one.mem] at others
    refine ⟨u, ?_, one.trans others, done⟩
    rw [List.length_cons, events, first]
    exact more

theorem events_add (m n : Nat) (s : State) : events (m + n) s = andThen (events m s) (events n) := by
  induction m generalizing s with
  | zero => rw [Nat.zero_add]; rfl
  | succ m ih =>
    rw [Nat.succ_add, events, events]
    cases event s with
    | next t => exact ih t
    | fault r => rfl
    | refused r => rfl

theorem events_one (s : State) : events 1 s = event s := by
  rw [events]
  cases event s with
  | next t => rfl
  | fault r => rfl
  | refused r => rfl

/-- From SlaveAddress on, one EVENT sends the address byte, and each further one a byte of the runs. -/
theorem events_from_slaveAddress {s : State} (h : InTransaction s) (phase : s.state = .slaveAddress)
    {sent rest : List Addr} (left : toSend s.req = sent ++ rest) :
    ∃ t, events (sent.length + 1) s = .next t ∧
      Progress s (.write (addrByte s.par s.req.address) :: sent.map (byteSym s.par s.mem)) sent t ∧ Sending t ∧
      toSend t.req = rest := by
  obtain ⟨t, first, address, sending, req⟩ := event_sends_address h phase
  obtain ⟨u, more, bytes, done⟩ := events_send_bytes sending (req ▸ left)
  rw [address.par, address.mem] at bytes
  refine ⟨u, ?_, address.trans bytes, done⟩
  rw [events, first]
  exact more

/-- With no byte left EVENT is the end of the transaction (rule R122). -/
theorem event_finishes {s : State} (h : Sending s) (spent : toSend s.req = []) :
    ∃ wires status n, event s = onNext closeWindow (finishTransaction (s.served wires status n)) := by
  obtain ⟨noPrefix, noData⟩ := (toSend_eq_nil_iff _).1 spent
  have phase : s.state = .stop := h.phase.trans (afterAddress_eq (.inl ⟨noPrefix, noData, rfl⟩))
  obtain ⟨wires, status, n, ran⟩ := event_of_commanded h.commanded
  rw [phase] at ran
  exact ⟨wires, status, n, ran⟩

/-! ### Acceptance and completion (rules R103, R122, R150) -/

/-- An accepted submission is in transaction, all its bytes still to send. -/
theorem accept_inTransaction {s : State} {q : Submission} (met : ContractMet s q)
    (outstanding : s.cmdq.map Command.word = [] ∨ s.cmdq.map Command.word = [stopWord]) (noLine : s.todo = []) :
    InTransaction (accept q s) where
  counts := countsFit_of_accepted ((submitFlaw_none_iff_contractMet s q).2 met) rfl rfl rfl
  commanded := ⟨startWord, .inl rfl, by
    obtain none | stop := outstanding
    · exact .inl (by simp [none])
    · exact .inr (by simp [stop])⟩
  todo := noLine

/-- CB.NOP, CB.RELEASE and a routine of the host's own table submit nothing: of the state they write a display record
and the callback's lines alone. -/
theorem callRoutine_of_no_submission {s : State} {cb : CbId}
    (h : cb = 1 ∨ cb = 2 ∨ (5 ≤ cb ∧ ∃ body, (cb, body) ∈ s.routines)) (arg : Arg) :
    ∃ displays todo, callRoutine cb arg s = .next { s with displays := displays, todo := todo } := by
  obtain rfl | rfl | ⟨host, entry⟩ := h
  · exact ⟨s.displays, s.todo, rfl⟩
  · exact ⟨_, s.todo, rfl⟩
  · obtain ⟨body, listed⟩ := Option.isSome_iff_exists.1 ((lookup_isSome_iff s.routines cb).2 entry)
    exact ⟨s.displays, _, callRoutine_of_listed host listed arg⟩

/-- The callbacks of a well-formed submission that submit nothing (rules R77, R105). -/
theorem ContractMet.callback {s : State} {q : Submission} (met : ContractMet s q)
    (quiet : q.cb = 1 ∨ q.cb = 2 ∨ 5 ≤ q.cb) :
    q.cb = 1 ∨ q.cb = 2 ∨ (5 ≤ q.cb ∧ ∃ body, (q.cb, body) ∈ s.routines) := by
  obtain ⟨-, -, -, -, routine⟩ := met
  obtain nop | release | host := quiet
  · exact .inl nop
  · exact .inr (.inl release)
  · have other {k : CbId} (client : k < 5) : q.cb ≠ k := (Nat.lt_of_lt_of_le client host).ne'
    rw [or_iff_right (other (k := 1) (by decide)), or_iff_right (other (k := 2) (by decide)),
      or_iff_right (other (k := 3) (by decide)), or_iff_right (other (k := 4) (by decide))] at routine
    exact .inr (.inr ⟨host, routine⟩)

/-- The SUBMIT of a well-formed request in Idle leads to its acceptance, with the outcome Ok. -/
theorem exec_submit_eq_accept {s u : State} {q : Submission} (met : ContractMet s q) (idle : s.state = .idle)
    (ran : exec (.submit q) s = .next u) : u = (accept q s).answerWith .ok := by
  rw [exec_of_submits (.inl rfl), submitOnce_of_idle met idle] at ran
  injection ran with ran
  exact ran.symm

/-- Before the last of its EVENTs a transaction is in flight and has completed nothing (rules R25, R154). -/
theorem events_before_completion {u : State} (h : InTransaction u) (phase : u.state = .slaveAddress) {k : Nat}
    (early : k < (toSend u.req).length + 2) :
    ∃ t, events k u = .next t ∧ t.state ≠ .idle ∧ t.complTrace = u.complTrace := by
  cases k with
  | zero => exact ⟨u, rfl, by rw [phase]; decide, rfl⟩
  | succ n =>
    have left : toSend u.req = (toSend u.req).take n ++ (toSend u.req).drop n := (List.take_append_drop _ _).symm
    obtain ⟨t, ran, progress, sending, -⟩ := events_from_slaveAddress h phase left
    rw [List.length_take, Nat.min_eq_left (by omega)] at ran
    exact ⟨t, ran, sending.not_idle, progress.complTrace⟩

/-- The last of the EVENTs of a transaction is its end, with all its bytes sent (rule R127). -/
theorem events_finish {u : State} (h : InTransaction u) (phase : u.state = .slaveAddress) :
    ∃ t, Progress u (.write (addrByte u.par u.req.address) :: (toSend u.req).map (byteSym u.par u.mem)) (toSend u.req)
        t ∧
      t.todo = [] ∧ t.evPending = false ∧ t.cmdq = [] ∧
      events ((toSend u.req).length + 2) u = onNext closeWindow (finishTransaction t) := by
  obtain ⟨t, ran, progress, sending, spent⟩ := events_from_slaveAddress h phase (List.append_nil _).symm
  obtain ⟨wires, status, n, last⟩ := event_finishes sending spent
  refine ⟨t.served wires status n, ?_, sending.todo, rfl, rfl, ?_⟩
  · exact ⟨progress.par, progress.routines, progress.displays, progress.mem, progress.cb, progress.cbArg,
      progress.complTrace, progress.wireTrace, progress.readTrace⟩
  · calc events ((toSend u.req).length + 1 + 1) u = andThen (events ((toSend u.req).length + 1) u) (events 1) :=
          events_add _ 1 u
      _ = events 1 t := by rw [ran]; rfl
      _ = onNext closeWindow (finishTransaction (t.served wires status n)) := (events_one t).trans last

/-- The end of a transaction whose callback submits nothing. -/
theorem finishTransaction_of_no_submission {s : State}
    (h : s.req.cb = 1 ∨ s.req.cb = 2 ∨ (5 ≤ s.req.cb ∧ ∃ body, (s.req.cb, body) ∈ s.routines)) :
    ∃ t, finishTransaction s = .next t ∧ t.state = .idle ∧ t.wireTrace = s.wireTrace ++ [.stop] ∧
      t.complTrace = s.complTrace ++ [{ cb := s.req.cb, arg := s.req.cbArg }] ∧ t.evPending = s.evPending ∧
      t.mem = s.mem ∧ t.readTrace = s.readTrace := by
  obtain ⟨displays, todo, ran⟩ := callRoutine_of_no_submission
    (s := { (s.busStop.setPhase .idle) with complTrace := s.complTrace ++ [_], ctx := .handler }) h s.req.cbArg
  exact ⟨_, ran, rfl, rfl, rfl, rfl, rfl, rfl⟩

/-- Settles O58: the transaction's last EVENT is its end, whose callback submits nothing, and at every EVENT before
that it is in flight. -/
theorem transactionCompletesAfterItsEvents : Obligations.TransactionCompletesAfterItsEvents := by
  unfold Obligations.TransactionCompletesAfterItsEvents
  intro s u q met idle _ _ noCommand noLine quiet submitted
  obtain rfl := exec_submit_eq_accept met idle submitted
  have accepted := accept_inTransaction met (.inl (by rw [noCommand]; rfl)) noLine
  have started : InTransaction ((accept q s).answerWith .ok) := ⟨accepted.counts, accepted.commanded, accepted.todo⟩
  have count : (toSend (reqOf q)).length = q.pfxLen + q.dataLen := length_toSend (reqOf q)
  refine ⟨?_, fun k early => events_before_completion started rfl (count ▸ early :)⟩
  obtain ⟨t, progress, -, eventTaken, -, ran⟩ := events_finish started rfl
  have callback : t.req.cb = 1 ∨ t.req.cb = 2 ∨ (5 ≤ t.req.cb ∧ ∃ body, (t.req.cb, body) ∈ t.routines) := by
    rw [progress.cb, progress.routines]
    exact met.callback quiet
  obtain ⟨v, finished, state, wireTrace, complTrace, evPending, mem, readTrace⟩ :=
    finishTransaction_of_no_submission callback
  rw [finished] at ran
  refine ⟨closeWindow v, count ▸ ran, ?_, ?_, ?_, ?_, ?_, ?_⟩
  · rw [closeWindow_state, state]
  · rw [closeWindow_wireTrace, wireTrace, progress.wireTrace, frame_eq]
    simp [reqOf]
  · rw [closeWindow_complTrace, complTrace, progress.complTrace, progress.cb, progress.cbArg]
    rfl
  · rw [closeWindow_evPending, evPending, eventTaken]
  · rw [closeWindow_mem, mem, progress.mem]
    rfl
  · rw [closeWindow_readTrace, readTrace, progress.readTrace, List.append_assoc, ← toSend_reqOf]
    rfl

end Sys2Proof.Machine
end

section
/-!
PROOFS. The invariants of the completion chain: the bus engine contract (rules R25, R26, R56 to R59, R214), host code
without completion words (rule R31), and one start and one completion per stop (rules R25, R154, R155).
-/

namespace Sys2Proof.Machine

/-! ### What an event step in flight does (rules R122 to R126) -/

/-- The bus side of an event step that sends a byte: one WRITE is handed over, the transaction stays in flight. -/
structure SendsByte (s t : State) : Prop where
  inFlight : t.state ≠ .idle
  event    : t.evPending = s.evPending
  compl    : t.complTrace = s.complTrace
  write    : ∃ b, t.cmdq = handed s (writeWord b) ∧ t.wireTrace = s.wireTrace ++ [.write b]

theorem afterAddress_ne_idle (r : Req) : afterAddress r ≠ .idle := by
  unfold afterAddress
  split_ifs <;> decide

theorem afterPrefix_ne_idle (r : Req) : afterPrefix r ≠ .idle := by
  rw [afterPrefix_eq_afterAddress]
  exact afterAddress_ne_idle r

theorem afterData_ne_idle (r : Req) : afterData r ≠ .idle := by
  unfold afterData
  split_ifs <;> decide

/-- In flight an event step ends the transaction or sends a byte. -/
theorem eventStep_next {s t : State} (ran : exec (eventInstr s.state) s = .next t) (busy : s.state ≠ .idle) :
    finishTransaction s = .next t ∨ SendsByte s t := by
  cases phase : s.state with
  | idle => exact absurd phase busy
  | stop =>
    rw [phase] at ran
    exact .inl ran
  | slaveAddress =>
    rw [phase] at ran
    injection ran with ran
    exact .inr (ran ▸ ⟨afterAddress_ne_idle _, rfl, rfl, _, rfl, rfl⟩)
  | writePrefix =>
    rw [phase] at ran
    injection ran with ran
    exact .inr (ran ▸ ⟨afterPrefix_ne_idle _, rfl, rfl, _, rfl, rfl⟩)
  | writeByte =>
    rw [phase] at ran
    injection ran with ran
    exact .inr (ran ▸ ⟨afterData_ne_idle _, rfl, rfl, _, rfl, rfl⟩)

/-! ### The bus engine contract (rules R25, R26, R214) -/

theorem busContract_iff_of_idle {s : State} (idle : s.state = .idle) :
    BusContract s ↔
      s.evPending = false ∧ (s.cmdq.map Command.word = [] ∨ s.cmdq.map Command.word = [stopWord]) := by
  simp only [BusContract, idle]

theorem busContract_iff_of_inFlight {s : State} (busy : s.state ≠ .idle) :
    BusContract s ↔ (s.evPending = true ∧ s.cmdq.map Command.word = []) ∨ (s.evPending = false ∧ Commanded s) := by
  unfold BusContract
  cases phase : s.state with
  | idle => exact absurd phase busy
  | stop | slaveAddress | writePrefix | writeByte => rfl

/-- The contract looks at `state`, the event and the outstanding commands alone. -/
theorem BusContract.congr {s t : State} (h : BusContract s) (state : t.state = s.state)
    (event : t.evPending = s.evPending) (cmdq : t.cmdq = s.cmdq) : BusContract t := by
  unfold BusContract at h ⊢
  rwa [state, event, cmdq]

/-- A pending event is that of a transaction in flight, and the bus engine has nothing to do. -/
theorem BusContract.inFlight_of_pending {s : State} (h : BusContract s) (pending : s.evPending = true) :
    s.state ≠ .idle ∧ s.cmdq.map Command.word = [] := by
  have busy : s.state ≠ .idle := fun idle => by
    simp [((busContract_iff_of_idle idle).1 h).1] at pending
  obtain ⟨-, none⟩ | ⟨taken, -⟩ := (busContract_iff_of_inFlight busy).1 h
  · exact ⟨busy, none⟩
  · simp [taken] at pending

/-- With the event taken, one more command that owes an event meets the contract in flight. -/
theorem busContract_of_handed {s t : State} {w : BitVec 10} (owing : Owing w) (busy : t.state ≠ .idle)
    (taken : t.evPending = false) {c : Command} (word : c.word = w) (cmdq : t.cmdq = s.cmdq ++ [c])
    (outstanding : s.cmdq.map Command.word = [] ∨ s.cmdq.map Command.word = [stopWord]) : BusContract t := by
  refine (busContract_iff_of_inFlight busy).2 (.inr ⟨taken, w, owing, ?_⟩)
  obtain none | stop := outstanding
  · exact .inl (by simp [cmdq, none, word])
  · exact .inr (by simp [cmdq, stop, word])

/-- An accepted submission hands START over in Idle, after at most one STOP. -/
theorem BusContract.of_busEffect {s t : State} (h : BusContract s) (event : t.evPending = s.evPending)
    (bus : BusEffect s t) : BusContract t := by
  obtain ⟨state, -, cmdq, -⟩ | ⟨idle, state, -, ⟨c, word, cmdq⟩, -⟩ := bus
  · exact h.congr state event cmdq
  · obtain ⟨taken, outstanding⟩ := (busContract_iff_of_idle idle).1 h
    have busy : t.state ≠ .idle := by simp [state]
    exact busContract_of_handed (.inl rfl) busy (event.trans taken) word cmdq outstanding

theorem BusContract.closeWindow {s : State} (h : BusContract s) : BusContract (closeWindow s) :=
  h.congr (closeWindow_state s) (closeWindow_evPending s) (closeWindow_cmdq s)

theorem runLine_evPending {a : HostAct} {s t : State} (ran : runLine a s = .next t) : t.evPending = s.evPending := by
  obtain effect | ⟨-, cb, arg, ran⟩ := runLine_effect ran
  · exact effect.ev
  · exact (invoke_frame ran).2.2

theorem runLine_busContract {a : HostAct} {s t : State} (ran : runLine a s = .next t) (h : BusContract s) :
    BusContract t :=
  h.of_busEffect (runLine_evPending ran) (runLine_busEffect ran).2

/-- With its event taken, an event step hands over STOP and returns to Idle, or hands over one WRITE. -/
theorem eventStep_busContract {s t : State} (ran : exec (eventInstr s.state) s = .next t) (busy : s.state ≠ .idle)
    (taken : s.evPending = false) (none : s.cmdq.map Command.word = []) : BusContract t := by
  obtain finished | ⟨inFlight, event, -, b, cmdq, -⟩ := eventStep_next ran busy
  · have stopped : BusContract (s.busStop.setPhase .idle) :=
      (busContract_iff_of_idle rfl).2 ⟨taken, .inr (by simp [none])⟩
    exact stopped.of_busEffect (invoke_frame finished).2.2 (invoke_busEffect finished)
  · exact busContract_of_handed (.inr ⟨b, rfl⟩) inFlight (event.trans taken) rfl cmdq (.inl none)

/-- STOP raises no event (rule R57). -/
theorem exec_decodeCmd_evPending_of_stop {w : BitVec 10} (stops : w = stopWord) {s t : State}
    (ran : exec (decodeCmd w) s = .next t) : t.evPending = s.evPending := by
  subst stops
  injection ran with ran
  exact ran ▸ rfl

/-- The oldest command is a STOP, which raises no event, or the one that owes the event. -/
theorem BusContract.perform {s t : State} (h : BusContract s) {c : Command} {rest : List Command}
    (queued : s.cmdq = c :: rest) (ran : exec (decodeCmd c.word) { s with cmdq := rest } = .next t) :
    BusContract t := by
  obtain ⟨state, -⟩ := exec_state_req_of_no_submission (.inl (decodeCmd_format _)) ran
  obtain ⟨-, rfl : t.cmdq = rest, -⟩ := exec_decodeCmd_wires ran
  by_cases idle : s.state = .idle
  · obtain ⟨taken, none | stop⟩ := (busContract_iff_of_idle idle).1 h
    · simp [queued] at none
    · rw [queued] at stop
      obtain ⟨word, left⟩ := List.cons.inj stop
      have event := exec_decodeCmd_evPending_of_stop word ran
      exact (busContract_iff_of_idle (state.trans idle)).2 ⟨event.trans taken, .inl left⟩
  · have inFlight : t.state ≠ .idle := state.trans_ne idle
    obtain ⟨-, none⟩ | ⟨taken, w, owing, one | two⟩ := (busContract_iff_of_inFlight idle).1 h
    · simp [queued] at none
    · rw [queued] at one
      obtain ⟨rfl, left⟩ := List.cons.inj one
      have event := exec_decodeCmd_evPending_of_owing owing ran
      exact (busContract_iff_of_inFlight inFlight).2 (.inl ⟨event, left⟩)
    · rw [queued] at two
      obtain ⟨word, left⟩ := List.cons.inj two
      have event := exec_decodeCmd_evPending_of_stop word ran
      exact (busContract_iff_of_inFlight inFlight).2 (.inr ⟨event.trans taken, w, owing, .inl left⟩)

theorem BusContract.moves {s t : State} (h : BusContract s) (move : Moves s t) : BusContract t := by
  cases move with
  | engine queued _ ran => exact h.perform queued ran
  | handler _ pending ran =>
    obtain ⟨busy, none⟩ := h.inFlight_of_pending pending
    exact (eventStep_busContract (s := takeEvent s) ran busy rfl none).closeWindow
  | callbackReturn => exact h
  | callbackLine _ _ ran => exact (runLine_busContract ran h).closeWindow
  | mainLine _ _ ran => exact runLine_busContract ran h
  | procedure => exact h

/-! ### Host code without completion words (rule R31) -/

/-- The words a port carries are those of a line's formats, and in a window the completion words. -/
theorem lineFormat_of_portCarries {c : Ctx} {w : PortWord} (carried : portCarries c w = true)
    (host : w.format ≠ .cpl) : lineFormat w.format := by
  unfold portCarries at carried
  cases format : w.format with
  | sub => exact .inl rfl
  | host => exact .inr (.inl rfl)
  | pseudo => exact .inr (.inr rfl)
  | cpl => exact absurd format host
  | st | cmd => simp [format] at carried

theorem noCpl_line_of_lineFormat {w : PortWord} (h : lineFormat w.format) : (HostAct.line w).noCpl = true := by
  obtain format | format | format := h
  all_goals simp [HostAct.noCpl, format]

/-- A line without a completion word has the effects of a host operation alone. -/
theorem runLine_effect_of_noCpl {a : HostAct} (host : a.noCpl = true) {s t : State} (ran : runLine a s = .next t) :
    HostEffect s t := by
  obtain effect | ⟨w, i, rfl, carried, decoded, ran⟩ := runLine_next ran
  · exact effect
  · have line := lineFormat_of_portCarries carried (by simpa [HostAct.noCpl] using host)
    exact exec_line_effect (decode_format decoded ▸ line) ran

theorem onArg_format (W : Widths) (arg : Arg) (w : PortWord) : (onArg W arg w).format = w.format := by
  cases w <;> rfl

theorem noCpl_bindArg (W : Widths) (arg : Arg) (a : HostAct) : (bindArg W arg a).noCpl = a.noCpl := by
  cases a with
  | lineOnArg w => simp only [bindArg, HostAct.noCpl, onArg_format]
  | line | memw | update | updateOnArg | part => rfl

/-- The lines of a client procedure: assignments, parts, and the one word LOCK.ACQUIRE. -/
theorem partsOf_noCpl {p : Params} {i : Instr} {lines : List HostAct} (h : partsOf p i = some lines) :
    lines.all HostAct.noCpl = true := by
  cases i with
  | displayInit d width height fb freq busAddr =>
    simp only [partsOf] at h
    split at h
    · injection h with h
      exact h ▸ rfl
    · cases h
  | refreshStart | brightnessSet =>
    injection h with h
    exact h ▸ rfl
  | _ => cases h

theorem procedureLines_noCpl {p : Params} {a : HostAct} {lines : List HostAct}
    (calls : procedureLines p a = some lines) : lines.all HostAct.noCpl = true := by
  cases a with
  | line w =>
    simp only [procedureLines] at calls
    split at calls
    · exact partsOf_noCpl calls
    · cases calls
  | lineOnArg | memw | update | updateOnArg | part => cases calls

/-- An operation repeated as a line is of a line's format. -/
theorem HostCode.of_hostEffect {s t : State} (h : HostCode s) (effect : HostEffect s t) : HostCode t := by
  obtain ⟨main, todo, routines⟩ := h
  rw [HostCode, effect.routines]
  obtain ⟨hm, ht⟩ | ⟨w, line, ⟨-, hm, ht⟩ | ⟨-, hm, ht⟩⟩ := effect.lines
  · exact ⟨hm ▸ main, ht ▸ todo, routines⟩
  · exact ⟨by rw [hm, List.all_cons, noCpl_line_of_lineFormat line, main]; rfl, ht ▸ todo, routines⟩
  · exact ⟨hm ▸ main, by rw [ht, List.all_cons, noCpl_line_of_lineFormat line, todo]; rfl, routines⟩

/-- A listed routine's lines carry no completion word, whatever argument they are bound to. -/
theorem HostCode.body {s : State} (h : HostCode s) {cb : CbId} {body : List HostAct}
    (listed : s.routines.lookup cb = some body) (W : Widths) (arg : Arg) :
    (body.map (bindArg W arg)).all HostAct.noCpl = true := by
  obtain ⟨-, -, routines⟩ := h
  obtain ⟨before, after, entry, -⟩ := List.lookup_eq_some_iff.1 listed
  have host : body.all HostAct.noCpl = true := List.all_eq_true.1 routines (cb, body) (by simp [entry])
  simpa [noCpl_bindArg] using host

theorem invoke_hostCode {cb : CbId} {arg : Arg} {s t : State} (ran : invoke cb arg s = .next t) (h : HostCode s) :
    HostCode t := by
  obtain ⟨-, effect | ⟨body, listed, rfl⟩⟩ := callRoutine_next ran
  · exact HostCode.of_hostEffect (s := { s with complTrace := _, ctx := .handler }) h effect
  · have lines := h.body listed s.par.widths arg
    obtain ⟨main, todo, routines⟩ := h
    exact ⟨main, by rw [List.all_append, lines, todo]; rfl, routines⟩

theorem eventStep_hostCode {b : BusState} {s t : State} (ran : exec (eventInstr b) s = .next t) (h : HostCode s) :
    HostCode t := by
  cases b with
  | idle | stop => exact invoke_hostCode (s := s.busStop.setPhase .idle) ran h
  | slaveAddress | writePrefix | writeByte =>
    injection ran with ran
    exact ran ▸ h

theorem HostCode.closeWindow {s : State} (h : HostCode s) : HostCode (closeWindow s) := by
  rwa [HostCode, closeWindow_main, closeWindow_todo, closeWindow_routines]

/-- The next line of a callback, and what it leaves. -/
theorem HostCode.popTodo {s : State} (h : HostCode s) {a : HostAct} {rest : List HostAct}
    (lines : s.todo = a :: rest) : a.noCpl = true ∧ HostCode { s with todo := rest } := by
  obtain ⟨main, todo, routines⟩ := h
  rw [lines, List.all_cons, Bool.and_eq_true] at todo
  exact ⟨todo.1, main, todo.2, routines⟩

/-- Main-line's next line, and what it leaves. -/
theorem HostCode.popMain {s : State} (h : HostCode s) {a : HostAct} {rest : List HostAct}
    (lines : s.main = a :: rest) : a.noCpl = true ∧ HostCode { s with main := rest } := by
  obtain ⟨main, todo, routines⟩ := h
  rw [lines, List.all_cons, Bool.and_eq_true] at main
  exact ⟨main.1, main.2, todo, routines⟩

theorem HostCode.moves {s t : State} (h : HostCode s) (move : Moves s t) : HostCode t := by
  cases move with
  | engine _ _ ran => obtain rfl | ⟨y, rfl | rfl⟩ := exec_decodeCmd_next ran <;> exact h
  | handler _ _ ran => exact (eventStep_hostCode (s := takeEvent s) ran h).closeWindow
  | callbackReturn => exact h
  | callbackLine _ lines ran =>
    obtain ⟨host, left⟩ := h.popTodo lines
    exact (left.of_hostEffect (runLine_effect_of_noCpl host ran)).closeWindow
  | mainLine _ lines ran =>
    obtain ⟨host, left⟩ := h.popMain lines
    exact left.of_hostEffect (runLine_effect_of_noCpl host ran)
  | procedure _ next _ calls =>
    obtain ⟨-, main, todo, routines⟩ := h.popMain next
    exact ⟨by rw [List.all_append, procedureLines_noCpl calls, main]; rfl, todo, routines⟩

/-! ### One start and one completion per stop (rules R25, R154, R155) -/

/-- The count looks at `state` and the two traces alone. -/
theorem OneCompletionEach.congr {s t : State} (h : OneCompletionEach s) (state : t.state = s.state)
    (wires : t.wireTrace = s.wireTrace) (compl : t.complTrace = s.complTrace) : OneCompletionEach t := by
  unfold OneCompletionEach at h ⊢
  rwa [state, wires, compl]

/-- An accepted submission leaves Idle with one start more. -/
theorem OneCompletionEach.of_busEffect {s t : State} (h : OneCompletionEach s) (compl : t.complTrace = s.complTrace)
    (bus : BusEffect s t) : OneCompletionEach t := by
  obtain ⟨state, -, -, wires⟩ | ⟨idle, state, wires, -, -⟩ := bus
  · exact h.congr state wires compl
  · obtain ⟨starts, completions⟩ := h
    rw [if_pos idle] at starts
    constructor
    · simp [state, wires, starts]
    · simpa [compl, wires] using completions

/-- A byte is no start and no stop. -/
theorem OneCompletionEach.of_sendsByte {s t : State} (h : OneCompletionEach s) (busy : s.state ≠ .idle)
    (sends : SendsByte s t) : OneCompletionEach t := by
  obtain ⟨inFlight, -, compl, b, -, wires⟩ := sends
  obtain ⟨starts, completions⟩ := h
  rw [if_neg busy] at starts
  constructor
  · simp [inFlight, wires, starts]
  · simpa [compl, wires] using completions

/-- An invocation makes one completion: its routine makes none. -/
theorem invoke_complTrace {cb : CbId} {arg : Arg} {s t : State} (ran : invoke cb arg s = .next t) :
    t.complTrace = s.complTrace ++ [{ cb := cb, arg := arg }] := by
  obtain ⟨-, effect | ⟨body, -, rfl⟩⟩ := callRoutine_next ran
  · exact effect.compl
  · rfl

/-- The end of a transaction: one stop and one completion, before the callback submits. -/
theorem finishTransaction_oneCompletionEach {s t : State} (ran : finishTransaction s = .next t)
    (busy : s.state ≠ .idle) (h : OneCompletionEach s) : OneCompletionEach t := by
  obtain ⟨starts, completions⟩ := h
  rw [if_neg busy] at starts
  have ended : OneCompletionEach
      { (s.busStop.setPhase .idle) with
        complTrace := s.complTrace ++ [{ cb := s.req.cb, arg := s.req.cbArg }] } := by
    constructor
    · simp [starts]
    · simp [completions]
  have invoked : invoke s.req.cb s.req.cbArg (s.busStop.setPhase .idle) = .next t := ran
  have completed := invoke_complTrace invoked
  have bus := invoke_busEffect invoked
  exact ended.of_busEffect completed bus

theorem OneCompletionEach.closeWindow {s : State} (h : OneCompletionEach s) : OneCompletionEach (closeWindow s) :=
  h.congr (closeWindow_state s) (closeWindow_wireTrace s) (closeWindow_complTrace s)

theorem eventStep_oneCompletionEach {s t : State} (ran : exec (eventInstr s.state) s = .next t)
    (busy : s.state ≠ .idle) (h : OneCompletionEach s) : OneCompletionEach t := by
  obtain finished | sends := eventStep_next ran busy
  · exact finishTransaction_oneCompletionEach finished busy h
  · exact h.of_sendsByte busy sends

/-- The contract keeps events to transactions in flight, and host code invokes no completion of its own. -/
theorem OneCompletionEach.moves {s t : State} (h : OneCompletionEach s) (contract : BusContract s) (code : HostCode s)
    (move : Moves s t) : OneCompletionEach t := by
  cases move with
  | engine _ _ ran => obtain rfl | ⟨y, rfl | rfl⟩ := exec_decodeCmd_next ran <;> exact h
  | handler _ pending ran =>
    obtain ⟨busy, -⟩ := contract.inFlight_of_pending pending
    exact (eventStep_oneCompletionEach (s := takeEvent s) ran busy h).closeWindow
  | callbackReturn => exact h
  | callbackLine _ lines ran =>
    have effect := runLine_effect_of_noCpl (code.popTodo lines).1 ran
    exact (OneCompletionEach.of_busEffect (s := { s with todo := _ }) h effect.compl effect.bus).closeWindow
  | mainLine _ lines ran =>
    have effect := runLine_effect_of_noCpl (code.popMain lines).1 ran
    exact OneCompletionEach.of_busEffect (s := { s with main := _ }) h effect.compl effect.bus
  | procedure => exact h

/-- Settles O57: the three are kept together, the count by the moves under the other two. -/
theorem stepKeepsOneCompletionPerTransaction : Obligations.StepKeepsOneCompletionPerTransaction := by
  unfold Obligations.StepKeepsOneCompletionPerTransaction
  intro s t contract code count ran
  refine step_keeps (P := fun s => BusContract s ∧ HostCode s ∧ OneCompletionEach s) (fun _ => id) ?_
    ⟨contract, code, count⟩ ran
  rintro s t ⟨contract, code, count⟩ move
  exact ⟨contract.moves move, code.moves move, count.moves contract code move⟩

end Sys2Proof.Machine
end

section
/-!
PROOFS. COMPLETE of the host's own routine (rule R150), and a callback that submits twice: its first SUBMIT is accepted
and its second rejected (rules R152, R153, R155).
-/

namespace Sys2Proof.Machine

/-- Settles O31: the routine's lines, bound to the argument, stand in front of the callback's work. -/
theorem completeRunsTheHostRoutine : Obligations.CompleteRunsTheHostRoutine := by
  unfold Obligations.CompleteRunsTheHostRoutine
  intro s cb arg body host listed
  exact execComplete_of_listed host listed arg

/-- A run that meets the caller contract has a reference of `PTR_W` bits (rule R48). -/
theorem RunMet.ptr_lt {p : Params} {ptr len : Nat} (h : RunMet p ptr len) : ptr < 2 ^ p.widths.ptrW :=
  (runFlaw_bound ((runFlaw_none_iff_runMet p ptr len).2 h)).2

/-- A submission that meets the caller contract fits a SUB word (rule R73). -/
theorem ContractMet.bounds {s : State} {q : Submission} (h : ContractMet s q) : q.Bounds s.par.widths := by
  obtain ⟨pfx, data, ⟨pfxLen, dataLen, cb, arg⟩, -, -⟩ := h
  exact ⟨pfx.ptr_lt, pfxLen, data.ptr_lt, dataLen, cb, arg⟩

/-- The contract looks at the parameters and the callback table alone. -/
theorem ContractMet.congr {s t : State} {q : Submission} (h : ContractMet s q) (par : t.par = s.par)
    (routines : t.routines = s.routines) : ContractMet t q := by
  unfold ContractMet at h ⊢
  rwa [par, routines]

/-- A SUB line is one attempt to submit what its word spells. -/
theorem runLine_encodeSub {s : State} {q : Submission} (met : ContractMet s q) :
    runLine (.line (.sub (encodeSub s.par.widths q))) s = submitOnce (.submit q) q s := by
  have decoded : decode s.par.widths (.sub (encodeSub s.par.widths q)) = .ok (.submit q) := by
    rw [decode, decodeSub_encodeSub met.bounds]
    rfl
  exact runLine_of_decode rfl decoded

theorem runCallback_of_line {s t : State} {a : HostAct} {rest : List HostAct} (lines : s.todo = a :: rest)
    (ran : runLine a { s with todo := rest } = .next t) : runCallback s = .next (closeWindow t) := by
  simp only [runCallback, lines, ran, onNext, andThen]

/-- In Idle a callback's SUB line is accepted. -/
theorem runCallback_submit_of_idle {s : State} {q : Submission} {rest : List HostAct} (met : ContractMet s q)
    (idle : s.state = .idle) (lines : s.todo = .line (.sub (encodeSub s.par.widths q)) :: rest) :
    runCallback s = .next (closeWindow ((accept q { s with todo := rest }).answerWith .ok)) :=
  runCallback_of_line lines
    ((runLine_encodeSub (s := { s with todo := rest }) met).trans
      (submitOnce_of_idle (s := { s with todo := rest }) met idle _))

/-- In flight a callback's SUB line that does not block is rejected. -/
theorem runCallback_submit_of_busy {s : State} {q : Submission} {rest : List HostAct} (met : ContractMet s q)
    (busy : s.state ≠ .idle) (returns : blocks q s = false)
    (lines : s.todo = .line (.sub (encodeSub s.par.widths q)) :: rest) :
    runCallback s = .next (closeWindow (State.answerWith { s with todo := rest } .busy)) :=
  runCallback_of_line lines
    ((runLine_encodeSub (s := { s with todo := rest }) met).trans
      (submitOnce_of_rejected (s := { s with todo := rest }) met busy returns _))

/-- In Stop the handler runs STOP and opens the window of a host routine with lines (rules R122, R150). -/
theorem runHandler_opens_window {s : State} {a : HostAct} {rest : List HostAct} (stop : s.state = .stop)
    (noLine : s.todo = []) (host : 5 ≤ s.req.cb) (listed : s.routines.lookup s.req.cb = some (a :: rest)) :
    ∃ t, runHandler s = .next t ∧ t.par = s.par ∧ t.routines = s.routines ∧ t.state = .idle ∧ t.ctx = .handler ∧
      t.todo = (a :: rest).map (bindArg s.par.widths s.req.cbArg) ∧ t.wireTrace = s.wireTrace ++ [.stop] := by
  have ended := (endOfTransactionStopsAndInvokes (takeEvent s) .evStop (.inl rfl)).2 _ host listed
  have ran : runHandler s = onNext closeWindow (exec .evStop (takeEvent s)) := by rw [runHandler_eq, stop]; rfl
  rw [ended] at ran
  refine ⟨_, ran.trans (congrArg Host.Outcome.next (closeWindow_of_lines _ rfl)), rfl, rfl, rfl, rfl, ?_, rfl⟩
  rw [takeEvent_todo, noLine, List.append_nil]
  rfl

/-- Settles O40: the end of the transaction leaves Idle before the callback's lines run, and the first line's
acceptance leaves Idle again before the second. -/
theorem callbackStartsExactlyOneTransaction : Obligations.CallbackStartsExactlyOneTransaction := by
  unfold Obligations.CallbackStartsExactlyOneTransaction
  intro s q r stop noLine host listed metFirst metSecond parameter
  obtain ⟨t, ended, par, routines, idle, ctx, lines, wires⟩ := runHandler_opens_window stop noLine host listed
  rw [← par] at lines
  have accepted := runCallback_submit_of_idle (metFirst.congr par routines) idle lines
  rw [closeWindow_of_lines _ rfl] at accepted
  have returns : blocks r t = false := (blocks_eq_false_iff r t).2 (.inl (par ▸ parameter))
  have rejected := runCallback_submit_of_busy
    (s := (accept q { t with todo := [.line (.sub (encodeSub t.par.widths r))] }).answerWith .ok)
    (metSecond.congr par routines) (by simp) returns rfl
  rw [closeWindow_of_empty _ rfl] at rejected
  exact ⟨t, _, _, ended, accepted, rejected, ctx, ctx, rfl, rfl, rfl, by simp [wires], rfl, rfl, rfl⟩

end Sys2Proof.Machine
end

section
/-!
PROOFS. The client procedures one by one: the busy lock (rules R171 to R173, R185), DISPLAY.INIT (rule R175), the
refresh's callbacks and REFRESH.START (rules R176, R180 to R182, R186) and BRIGHTNESS.SET (rule R184).
-/

namespace Sys2Proof.Machine

/-! ### One record written -/

theorem display_setDisplay_same (s : State) (d : Arg) (r : Display) : (s.setDisplay d r).display d = r :=
  Displays.get_put_same s.displays d r

theorem display_setDisplay_other (s : State) {d e : Arg} (r : Display) (h : e ≠ d) :
    (s.setDisplay d r).display e = s.display e :=
  Displays.get_put_other s.displays r h

/-- A procedure that ends with one record written, in the words of the statements. -/
theorem exists_setDisplay {o : Res} {s : State} {d : Arg} {r : Display} (ran : o = .next (s.setDisplay d r)) :
    ∃ t, o = .next t ∧ t = { s with displays := t.displays } ∧ t.display d = r ∧
      ∀ e, e ≠ d → t.display e = s.display e :=
  ⟨_, ran, rfl, display_setDisplay_same s d r, fun _ => display_setDisplay_other s r⟩

/-! ### The lock (rules R171 to R173, R185, R186, R245) -/

/-- Settles O33: the body of CB.NOP is empty. -/
theorem nopCallbackChangesNothing : Obligations.NopCallbackChangesNothing := by
  unfold Obligations.NopCallbackChangesNothing
  exact fun s arg => rfl

/-- Settles O34: both operations are `lockRelease`, one record written. -/
theorem releaseFreesTheLockAlone : Obligations.ReleaseFreesTheLockAlone := by
  unfold Obligations.ReleaseFreesTheLockAlone
  intro s d
  refine ⟨fun hW hd => decodeCpl_clientWord hW (cb := 2) (by decide) (fits_iff.2 hd), ?_⟩
  rintro i (rfl | rfl)
  · exact exists_setDisplay rfl
  · exact exists_setDisplay rfl

/-- Settles O41: the test and the claim are one step. -/
theorem tryLockClaimsOrAnswersBusy : Obligations.TryLockClaimsOrAnswersBusy := by
  unfold Obligations.TryLockClaimsOrAnswersBusy
  refine fun s d => ⟨fun held => ?_, fun free => ?_⟩
  · simp only [exec, execLockTry, held, if_true]
    rfl
  · refine ⟨(claim d s).answerWith .ok, ?_, rfl, display_setDisplay_same s d _, fun _ => display_setDisplay_other s _⟩
    simp only [exec, execLockTry, free, Bool.false_eq_true, if_false]

theorem exec_lockAcquire_of_free {s : State} {d : Arg} (free : (s.display d).lock = false) :
    exec (.lockAcquire d) s = .next (claim d s) := by
  simp only [exec, execLockAcquire, free, Bool.false_eq_true, if_false]

theorem exec_lockAcquire_of_held {s : State} {d : Arg} (held : (s.display d).lock = true) :
    exec (.lockAcquire d) s = .next (nextLine s (.line (encode s.par.widths (.lockAcquire d)))) := by
  simp only [exec, execLockAcquire, held, if_true, again_eq_nextLine]

/-- Settles O42: one poll of the loop. -/
theorem acquireClaimsOrPolls : Obligations.AcquireClaimsOrPolls := by
  unfold Obligations.AcquireClaimsOrPolls
  exact fun s d => ⟨fun free => exists_setDisplay (exec_lockAcquire_of_free free), exec_lockAcquire_of_held⟩

/-- In an open window a line that was taken and stands next again leaves the state as it was. -/
theorem nextLine_of_taken {s : State} {a : HostAct} {rest : List HostAct} (ctx : s.ctx = .handler)
    (lines : s.todo = a :: rest) : nextLine { s with todo := rest } a = s := by
  have inFront : nextLine { s with todo := rest } a = { s with todo := a :: rest } := by simp only [nextLine, ctx]
  rw [inFront, ← lines]

theorem decode_encode_lockAcquire {W : Widths} {d : Arg} (hd : d < 2 ^ W.argW) :
    decode W (encode W (.lockAcquire d)) = .ok (.lockAcquire d) :=
  checked_eq_ok.2 ⟨fits_iff.2 hd, rfl⟩

/-- Settles O43: the callback alone can move, and its poll puts back the line it took. -/
theorem acquireInHandlerNeverReturns : Obligations.AcquireInHandlerNeverReturns := by
  unfold Obligations.AcquireInHandlerNeverReturns
  intro s d rest ctx held noCommand hd lines
  have polled : exec (.lockAcquire d) { s with todo := rest } = .next s :=
    (exec_lockAcquire_of_held (s := { s with todo := rest }) held).trans
      (congrArg Host.Outcome.next (nextLine_of_taken ctx lines))
  calc step s = onNext closeWindow (exec (.lockAcquire d) { s with todo := rest }) :=
        step_callback_alone ctx noCommand lines rfl (decode_encode_lockAcquire hd)
    _ = onNext closeWindow (.next s) := congrArg _ polled
    _ = .next s := congrArg Host.Outcome.next (closeWindow_of_lines s lines)

/-! ### The submissions of the clients (rules R105, R175, R176, R181, R184) -/

theorem isClientCb_bounds {cb : Nat} (h : isClientCb cb = true) : cb ≠ 0 ∧ cb ≤ 4 := by
  simp only [isClientCb, Bool.or_eq_true, beq_iff_eq] at h
  obtain ((rfl | rfl) | rfl) | rfl := h <;> decide

/-- A client's submission meets the contract when its runs and counts do: its callback is a client callback. -/
theorem contractMet_of_client {s : State} {q : Submission} (hW : s.par.widths.wf = true)
    (pfx : RunMet s.par q.pfx q.pfxLen) (data : RunMet s.par q.data q.dataLen)
    (pfxLen : q.pfxLen < 2 ^ s.par.widths.plenW) (dataLen : q.dataLen < 2 ^ s.par.widths.dlenW)
    (arg : q.arg < 2 ^ s.par.widths.argW) (client : isClientCb q.cb = true) : ContractMet s q := by
  obtain ⟨notNone, high⟩ := isClientCb_bounds client
  have routine : isRoutine s q.cb = true := Bool.or_eq_true_iff.2 (.inl client)
  exact ⟨pfx, data, ⟨pfxLen, dataLen, clientId_lt hW high, arg⟩, notNone, (isRoutine_iff s q.cb).1 routine⟩

/-- `PLEN_W` counts the client buffers (rule R6). -/
theorem bufferLength_lt {W : Widths} (hW : W.wf = true) {n : Nat} (h : n < 8) : n < 2 ^ W.plenW := by
  simp only [Widths.wf, Bool.and_eq_true, decide_eq_true_eq] at hW
  calc n < 2 ^ 3 := h
    _ ≤ 2 ^ W.plenW := Nat.pow_le_pow_right (by decide) hW.1.1.2

/-- The payload run of a submission without payload. -/
theorem RunMet.absent (p : Params) : RunMet p 0 0 :=
  .inl ⟨rfl, rfl⟩

section
variable {s : State} {d : Arg} (hW : s.par.widths.wf = true) (hd : d < 2 ^ s.par.widths.argW)
include hW hd

theorem selectRequest_met (run : RunMet s.par s.par.selBuf 6) (r : Display) :
    ContractMet s (selectRequest s.par d r) :=
  contractMet_of_client hW run (.absent _) (bufferLength_lt hW (n := 6) (by decide)) (Nat.two_pow_pos _) hd rfl

theorem brightRequest_met (run : RunMet s.par s.par.brightBuf 4) (r : Display) :
    ContractMet s (brightRequest s.par d r) :=
  contractMet_of_client hW run (.absent _) (bufferLength_lt hW (n := 4) (by decide)) (Nat.two_pow_pos _) hd rfl

theorem pageRequest_met {r : Display} {p : Nat} (width : r.width < 2 ^ s.par.widths.dlenW)
    (pfx : RunMet s.par s.par.dataPfx 1) (page : RunMet s.par (r.fb + p * r.width) r.width) :
    ContractMet s (pageRequest s.par d r p) :=
  contractMet_of_client hW pfx page (bufferLength_lt hW (n := 1) (by decide)) width hd rfl

theorem initSubmission_met (counted : s.par.initBytes.length < 2 ^ s.par.widths.plenW)
    (run : RunMet s.par s.par.initSeq s.par.initBytes.length) (busAddr : BitVec 8) :
    ContractMet s (initSubmission s.par d busAddr) :=
  contractMet_of_client hW run (.absent _) counted (Nat.two_pow_pos _) hd rfl

end

/-! ### DISPLAY.INIT (rule R175) -/

theorem displayAdmitted_iff (p : Params) (width height fb : Nat) :
    displayAdmitted p width height fb = true ↔
      height % 8 = 0 ∧ 8 ≤ height ∧ height ≤ 64 ∧ 1 ≤ width ∧ fb + width * (height / 8) ≤ 2 ^ p.widths.ptrW :=
  decide_eq_true_iff

theorem initSubmit_of_idle {s : State} {d : Arg} {busAddr : BitVec 8}
    (met : ContractMet s (initSubmission s.par d busAddr)) (idle : s.state = .idle) :
    initSubmit d busAddr s = .next ((accept (initSubmission s.par d busAddr) s).answerWith .ok) :=
  submitOr_of_idle _ _ ((submitFlaw_none_iff_contractMet s _).2 met) idle

theorem initSubmit_of_busy {s : State} {d : Arg} {busAddr : BitVec 8}
    (met : ContractMet s (initSubmission s.par d busAddr)) (busy : s.state ≠ .idle) :
    initSubmit d busAddr s = .next (s.answerWith .busy) :=
  submitOr_of_busy _ _ ((submitFlaw_none_iff_contractMet s _).2 met) busy

/-- Settles O44: the record is filled and the lock freed before the one attempt, accepted or not. -/
theorem displayInitFillsTheRecordAndTriesOnce : Obligations.DisplayInitFillsTheRecordAndTriesOnce := by
  unfold Obligations.DisplayInitFillsTheRecordAndTriesOnce
  intro s d width height fb freq busAddr hW hd multiple low high wide top counted run
  have admitted := (displayAdmitted_iff s.par width height fb).2 ⟨multiple, low, high, wide, top⟩
  have tried : exec (.displayInit d width height fb freq busAddr) s
      = initSubmit d busAddr (fillDisplay d width height fb freq busAddr s) := if_pos admitted
  have met : ContractMet (fillDisplay d width height fb freq busAddr s) (initSubmission s.par d busAddr) :=
    (initSubmission_met hW hd counted run busAddr).congr rfl rfl
  by_cases idle : s.state = .idle
  · exact ⟨_, tried.trans (initSubmit_of_idle met idle), display_setDisplay_same s d _,
      fun _ => display_setDisplay_other s _, fun _ => rfl, fun busy => absurd idle busy⟩
  · exact ⟨_, tried.trans (initSubmit_of_busy met idle), display_setDisplay_same s d _,
      fun _ => display_setDisplay_other s _, fun isIdle => absurd isIdle idle, fun _ => rfl⟩

/-- Settles O45: each of these sizes breaks a clause of rule R175. -/
theorem displayInitOfOtherSizesIsRefused : Obligations.DisplayInitOfOtherSizesIsRefused := by
  unfold Obligations.DisplayInitOfOtherSizesIsRefused
  intro s d width height fb freq busAddr other
  have notAdmitted : ¬displayAdmitted s.par width height fb = true := by
    rw [displayAdmitted_iff]
    rintro ⟨multiple, low, high, wide, top⟩
    obtain odd | lower | higher | empty | past := other
    · exact odd multiple
    · exact Nat.not_lt.2 low lower
    · exact Nat.not_lt.2 high higher
    · exact Nat.one_le_iff_ne_zero.1 wide empty
    · exact Nat.not_lt.2 top past
  exact if_neg notAdmitted

/-! ### The procedures that spin (rules R88, R180 to R182, R184) -/

@[simp] theorem nextLine_par (s : State) (a : HostAct) : (nextLine s a).par = s.par := by
  unfold nextLine; split <;> rfl

@[simp] theorem nextLine_displays (s : State) (a : HostAct) : (nextLine s a).displays = s.displays := by
  unfold nextLine; split <;> rfl

@[simp] theorem nextLine_mem (s : State) (a : HostAct) : (nextLine s a).mem = s.mem := by
  unfold nextLine; split <;> rfl

/-- Two states with the same records and the same memory as it is read. -/
def SameClientData (t u : State) : Prop :=
  (∀ e, t.display e = u.display e) ∧ ∀ a, t.readByte a = u.readByte a

/-- A spin that is rejected after a procedure wrote records and memory. -/
theorem spin_of_busy_frame {s u : State} {q : Submission}
    (written : u = { s with displays := u.displays, mem := u.mem }) (met : ContractMet s q) (busy : s.state ≠ .idle) :
    ∃ t, spin q u = .next t ∧
      t = nextLine { s with displays := t.displays, mem := t.mem }
        (.line (encode s.par.widths (.submitSpin q))) ∧ SameClientData t u := by
  obtain ⟨displays, mem, rfl⟩ : ∃ displays mem, u = { s with displays := displays, mem := mem } := ⟨_, _, written⟩
  refine ⟨_, spin_of_busy (s := { s with displays := displays, mem := mem }) met busy, ?_, fun e => ?_, fun a => ?_⟩
  · rw [nextLine_displays, nextLine_mem]
  · rw [State.display, nextLine_displays]
    rfl
  · rw [State.readByte, nextLine_par, nextLine_mem]
    rfl

/-- Settles O35: the page's submission meets the contract and is accepted. -/
theorem selectDoneSubmitsThePage : Obligations.SelectDoneSubmitsThePage := by
  unfold Obligations.SelectDoneSubmitsThePage
  intro s d hW idle hd width pfx page
  exact (exec_cbSelectDone_eq d s).trans (spin_of_idle (pageRequest_met hW hd width pfx page) idle)

/-! ### Turning to a page (rules R84, R176) -/

/-- The cursor of a display set to a page and the page patched into SELBUF. -/
def turnTo (d : Arg) (p : Nat) (s : State) : State :=
  patchSelect d (setCursor d p s)

theorem display_turnTo_same (d : Arg) (p : Nat) (s : State) :
    (turnTo d p s).display d = { s.display d with cursor := p } :=
  display_setCursor d p s

theorem display_turnTo_other {d e : Arg} (p : Nat) (s : State) (h : e ≠ d) :
    (turnTo d p s).display e = s.display e :=
  display_setDisplay_other s _ h

theorem turnTo_mem (d : Arg) (p : Nat) (s : State) : (turnTo d p s).mem = pageMem s.par s.mem p := by
  rw [turnTo, patchSelect, display_setCursor]
  rfl

theorem readByte_turnTo_same (d : Arg) (p : Nat) (s : State) :
    (turnTo d p s).readByte ((s.par.selBuf + s.par.selPageIndex) % 2 ^ s.par.widths.ptrW) = pageByte s.par p := by
  rw [State.readByte, turnTo_mem]
  exact Memory.read_write_same _ _ _ _

theorem readByte_turnTo_other (d : Arg) (p : Nat) (s : State) {a : Addr}
    (h : a ≠ (s.par.selBuf + s.par.selPageIndex) % 2 ^ s.par.widths.ptrW) :
    (turnTo d p s).readByte a = s.readByte a := by
  rw [State.readByte, turnTo_mem]
  exact Memory.read_write_other _ _ _ h

theorem pageByte_zero (p : Params) : pageByte p 0 = p.selTemplate.getD p.selPageIndex 0#8 &&& 0xF0#8 := by
  simp [pageByte]

/-- Once the cursor is set, SelectPage patches its page and submits the select-page request. -/
theorem selectPage_setCursor (d : Arg) (p : Nat) (s : State) :
    selectPage d (setCursor d p s) = spin (selectRequest s.par d (s.display d)) (turnTo d p s) := by
  have request : selectSubmission s.par d ((turnTo d p s).display d) = selectRequest s.par d (s.display d) := by
    rw [display_turnTo_same]
    rfl
  exact congrArg (spin · (turnTo d p s)) request

/-- REFRESH.START turns to page 0 and selects it (rule R180). -/
theorem exec_refreshStart_eq (d : Arg) (s : State) :
    exec (.refreshStart d) s = spin (selectRequest s.par d (s.display d)) (turnTo d 0 s) :=
  selectPage_setCursor d 0 s

/-- CB.XFER_DONE of any page but the last turns to the next and selects it (rule R182). -/
theorem xferDone_of_more {s : State} {d : Arg} (more : (s.display d).cursor + 1 ≠ (s.display d).pageCount) :
    xferDone d s = spin (selectRequest s.par d (s.display d)) (turnTo d ((s.display d).cursor + 1) s) := by
  rw [xferDone, nextPage, display_setCursor, if_neg more, selectPage_setCursor]

/-- CB.XFER_DONE of the last page advances the cursor and frees the lock (rule R182). -/
theorem xferDone_of_last {s : State} {d : Arg} (last : (s.display d).cursor + 1 = (s.display d).pageCount) :
    xferDone d s = .next (s.setDisplay d { s.display d with cursor := (s.display d).pageCount, lock := false }) := by
  rw [xferDone, nextPage, display_setCursor, if_pos last, lockRelease, display_setCursor, last]
  simp [setCursor, State.setDisplay]

/-- Settles O38: the cursor's write and the lock's are one write of the record. -/
theorem lastPageReleasesTheLock : Obligations.LastPageReleasesTheLock := by
  unfold Obligations.LastPageReleasesTheLock
  exact fun s d last => exists_setDisplay (xferDone_of_last last)

/-- Settles O39: the next page's select-page submission is accepted at its first attempt. -/
theorem otherPageSelectsTheNext : Obligations.OtherPageSelectsTheNext := by
  unfold Obligations.OtherPageSelectsTheNext
  intro s d hW more idle hd run
  have met := selectRequest_met hW hd run (s.display d)
  exact ⟨_, (xferDone_of_more more).trans (spin_of_idle (s := turnTo d _ s) met idle), rfl,
    display_turnTo_same d _ s, fun _ => display_turnTo_other _ s, readByte_turnTo_same d _ s,
    fun _ => readByte_turnTo_other d _ s⟩

/-- Settles O37: each callback's submission is rejected; CB.XFER_DONE has turned to the next page before. -/
theorem callbackSpinsWhileBusy : Obligations.CallbackSpinsWhileBusy := by
  unfold Obligations.CallbackSpinsWhileBusy
  intro s d hW busy hd
  refine ⟨fun width pfx page => ?_, fun more run => ?_⟩
  · exact (exec_cbSelectDone_eq d s).trans (spin_of_busy (pageRequest_met hW hd width pfx page) busy)
  · obtain ⟨t, ran, rejected, display, readByte⟩ :=
      spin_of_busy_frame (u := turnTo d _ s) rfl (selectRequest_met hW hd run (s.display d)) busy
    refine ⟨t, (xferDone_of_more more).trans ran, rejected, (display d).trans (display_turnTo_same d _ s),
      fun e other => (display e).trans (display_turnTo_other _ s other), fun a => (readByte a).trans ?_⟩
    rw [State.readByte, turnTo_mem]
    rfl

/-- Settles O46: page 0's select-page submission is accepted at its first attempt. -/
theorem refreshStartSelectsPageZero : Obligations.RefreshStartSelectsPageZero := by
  unfold Obligations.RefreshStartSelectsPageZero
  intro s d hW idle hd run
  have met := selectRequest_met hW hd run (s.display d)
  rw [← pageByte_zero]
  exact ⟨_, (exec_refreshStart_eq d s).trans (spin_of_idle (s := turnTo d 0 s) met idle), rfl,
    display_turnTo_same d 0 s, fun _ => display_turnTo_other 0 s, readByte_turnTo_same d 0 s,
    fun _ => readByte_turnTo_other d 0 s⟩

/-- Settles O47: the attempt that is rejected comes after the turn to page 0. -/
theorem refreshStartWhileBusySpins : Obligations.RefreshStartWhileBusySpins := by
  unfold Obligations.RefreshStartWhileBusySpins
  intro s d hW busy hd run
  obtain ⟨t, ran, rejected, display, readByte⟩ :=
    spin_of_busy_frame (u := turnTo d 0 s) rfl (selectRequest_met hW hd run (s.display d)) busy
  rw [← pageByte_zero]
  exact ⟨t, (exec_refreshStart_eq d s).trans ran, rejected, (display d).trans (display_turnTo_same d 0 s),
    fun e other => (display e).trans (display_turnTo_other 0 s other),
    (readByte _).trans (readByte_turnTo_same d 0 s),
    fun a other => (readByte a).trans (readByte_turnTo_other d 0 s other)⟩

/-! ### BRIGHTNESS.SET (rules R85, R184) -/

theorem exec_brightnessSet_of_held {s : State} {d : Arg} (held : (s.display d).lock = true) (level : Byte) :
    exec (.brightnessSet d level) s
      = .next (nextLine s (.line (encode s.par.widths (.brightnessSet d level)))) := by
  simp only [exec, execBrightnessSet, held, if_true, again_eq_nextLine]

/-- With the lock free the claim and the patch come before the submission. -/
theorem exec_brightnessSet_of_free {s : State} {d : Arg} (free : (s.display d).lock = false) (level : Byte) :
    exec (.brightnessSet d level) s
      = spin (brightRequest s.par d (s.display d)) (patchBright level (claim d s)) := by
  have request : brightSubmission s.par d ((claim d s).display d) = brightRequest s.par d (s.display d) := by
    rw [claim, display_setDisplay_same]
    rfl
  simp only [exec, execBrightnessSet, free, Bool.false_eq_true, if_false]
  exact congrArg (spin · (patchBright level (claim d s))) request

theorem display_patchBright_claim_same (level : Byte) (d : Arg) (s : State) :
    (patchBright level (claim d s)).display d = { s.display d with lock := true } :=
  display_setDisplay_same s d _

theorem display_patchBright_claim_other (level : Byte) {d e : Arg} (s : State) (h : e ≠ d) :
    (patchBright level (claim d s)).display e = s.display e :=
  display_setDisplay_other s _ h

theorem readByte_patchBright_claim_same (level : Byte) (d : Arg) (s : State) :
    (patchBright level (claim d s)).readByte ((s.par.brightBuf + 3) % 2 ^ s.par.widths.ptrW) = level :=
  readByte_writeByte_same (claim d s) _ level

theorem readByte_patchBright_claim_other (level : Byte) (d : Arg) (s : State) {a : Addr}
    (h : a ≠ (s.par.brightBuf + 3) % 2 ^ s.par.widths.ptrW) :
    (patchBright level (claim d s)).readByte a = s.readByte a :=
  readByte_writeByte_other (claim d s) level h

/-- Settles O48: with the lock free and the bus idle the whole procedure is done at once. -/
theorem brightnessSetClaimsPatchesAndSubmits : Obligations.BrightnessSetClaimsPatchesAndSubmits := by
  unfold Obligations.BrightnessSetClaimsPatchesAndSubmits
  intro s d level hW free idle hd run
  have met := brightRequest_met hW hd run (s.display d)
  exact ⟨_, (exec_brightnessSet_of_free free level).trans
      (spin_of_idle (s := patchBright level (claim d s)) met idle), rfl,
    display_patchBright_claim_same level d s, fun _ => display_patchBright_claim_other level s,
    readByte_patchBright_claim_same level d s, fun _ => readByte_patchBright_claim_other level d s⟩

/-- Settles O49: the held lock defers the whole procedure, the busy bus its submission alone. -/
theorem brightnessSetIsDeferred : Obligations.BrightnessSetIsDeferred := by
  unfold Obligations.BrightnessSetIsDeferred
  refine fun s d level => ⟨fun held => exec_brightnessSet_of_held held level, fun hW free busy hd run => ?_⟩
  obtain ⟨t, ran, rejected, display, readByte⟩ :=
    spin_of_busy_frame (u := patchBright level (claim d s)) rfl (brightRequest_met hW hd run (s.display d)) busy
  exact ⟨t, (exec_brightnessSet_of_free free level).trans ran, rejected,
    (display d).trans (display_patchBright_claim_same level d s),
    (readByte _).trans (readByte_patchBright_claim_same level d s),
    fun e other => (display e).trans (display_patchBright_claim_other level s other),
    fun a other => (readByte a).trans (readByte_patchBright_claim_other level d s other)⟩

end Sys2Proof.Machine
end

section
/-!
PROOFS. A whole refresh (rule R183): page after page, a select-page transaction and a transfer, each submitted by the
completion of the one before, until the last completion frees the lock.
-/

namespace Sys2Proof.Machine

/-! ### From one transaction to the next (rules R122, R152) -/

/-- A transaction has been sent: its callback is about to run, on a host's side that the transaction left alone. -/
structure Transacted (s : State) (q : Submission) (t : State) : Prop where
  par         : t.par = s.par
  routines    : t.routines = s.routines
  displays    : t.displays = s.displays
  mem         : t.mem = s.mem
  wireTrace   : t.wireTrace = s.wireTrace ++ frame s.par s.mem q
  complTrace  : t.complTrace = s.complTrace ++ [{ cb := q.cb, arg := q.arg }]
  idle        : t.state = .idle
  noEvent     : t.evPending = false
  noLine      : t.todo = []
  outstanding : t.cmdq.map Command.word = [stopWord]

/-- The EVENTs of an accepted submission lead to the start of its callback (rule R127). -/
theorem events_to_callback {s : State} {q : Submission} (met : ContractMet s q)
    (outstanding : s.cmdq.map Command.word = [] ∨ s.cmdq.map Command.word = [stopWord]) (noLine : s.todo = []) :
    ∃ t, events (q.pfxLen + q.dataLen + 2) (accept q s) = onNext closeWindow (callRoutine q.cb q.arg t) ∧
      Transacted s q t := by
  have started := accept_inTransaction met outstanding noLine
  have count : (toSend (reqOf q)).length = q.pfxLen + q.dataLen := length_toSend (reqOf q)
  obtain ⟨t, progress, lines, eventTaken, sent, ran⟩ := events_finish started rfl
  have cb : t.req.cb = q.cb := progress.cb
  have arg : t.req.cbArg = q.arg := progress.cbArg
  rw [finishTransaction_eq, cb, arg, accept_req_eq, count] at ran
  refine ⟨_, ran, progress.par, progress.routines, progress.displays, progress.mem, ?_, ?_, rfl, eventTaken, lines, ?_⟩
  · simp [progress.wireTrace, frame_eq, reqOf]
  · exact congrArg (· ++ [_]) progress.complTrace
  · simp [sent]

/-- A callback that submits in Idle ends the handler window with its submission accepted (rule R152). -/
theorem onNext_closeWindow_spin_of_idle {s : State} {q : Submission} (met : ContractMet s q) (idle : s.state = .idle)
    (noLine : s.todo = []) : onNext closeWindow (spin q s) = .next (accept q (handlerReturn s)) := by
  rw [spin_of_idle met idle]
  exact onNext_closeWindow_of_empty noLine

/-! ### The callbacks at a page of the refresh (rules R181, R182) -/

section
variable {s : State} {d : Arg} {r : Display} {p : Nat} (atPage : s.display d = { r with cursor := p })
include atPage

theorem selectDone_at_page : selectDone d s = spin (pageRequest s.par d r p) s := by
  rw [selectDone, atPage]
  rfl

theorem xferDone_before_last (more : p + 1 ≠ r.pageCount) :
    xferDone d s = spin (selectRequest s.par d r) (turnTo d (p + 1) s) := by
  have next := xferDone_of_more (s := s) (d := d)
  rw [atPage] at next
  exact next more

theorem xferDone_at_last (last : p + 1 = r.pageCount) :
    xferDone d s = .next (s.setDisplay d { r with cursor := r.pageCount, lock := false }) := by
  have freed := xferDone_of_last (s := s) (d := d)
  rw [atPage] at freed
  exact freed last

end

/-! ### What a refresh has sent -/

/-- The two frames of one page (rule R183). -/
def pageFrames (par : Params) (mem : List Host.Cell) (d : Arg) (r : Display) (p : Nat) : List Sym :=
  frame par (pageMem par mem p) (selectRequest par d r) ++ frame par (pageMem par mem p) (pageRequest par d r p)

/-- The two completions of one page. -/
def pageCompletions (d : Arg) : List Completion :=
  [{ cb := 3, arg := d }, { cb := 4, arg := d }]

/-- A later page's patch replaces an earlier one's (rule R176). -/
theorem pageMem_pageMem (par : Params) (mem : List Host.Cell) (p p' : Nat) :
    pageMem par (pageMem par mem p) p' = pageMem par mem p' :=
  Cells.put_put _ mem _ _ _

/-- A refresh started in `s` has sent the pages below `sent` and stands at page `p`: the cursor and SELBUF hold `p`,
no callback line is left, and a STOP is outstanding at most. -/
structure Refreshing (s : State) (d : Arg) (p sent : Nat) (t : State) : Prop where
  par         : t.par = s.par
  routines    : t.routines = s.routines
  display     : t.display d = { s.display d with cursor := p }
  mem         : t.mem = pageMem s.par s.mem p
  wireTrace   : t.wireTrace = s.wireTrace ++ (List.range sent).flatMap (pageFrames s.par s.mem d (s.display d))
  complTrace  : t.complTrace = s.complTrace ++ (List.range sent).flatMap fun _ => pageCompletions d
  noLine      : t.todo = []
  outstanding : t.cmdq.map Command.word = [] ∨ t.cmdq.map Command.word = [stopWord]

/-- The turn to the next page. -/
theorem Refreshing.turnTo {s t : State} {d : Arg} {p sent : Nat} (h : Refreshing s d p sent t) (p' : Nat) :
    Refreshing s d p' sent (turnTo d p' t) where
  par := h.par
  routines := h.routines
  display := by rw [display_turnTo_same, h.display]
  mem := by rw [turnTo_mem, h.par, h.mem, pageMem_pageMem]
  wireTrace := h.wireTrace
  complTrace := h.complTrace
  noLine := h.noLine
  outstanding := h.outstanding

/-- The return from the handler writes none of these. -/
theorem Refreshing.handlerReturn {s t : State} {d : Arg} {p sent : Nat} (h : Refreshing s d p sent t) :
    Refreshing s d p sent (handlerReturn t) :=
  ⟨h.par, h.routines, h.display, h.mem, h.wireTrace, h.complTrace, h.noLine, h.outstanding⟩

/-- Two transactions, the page's select-page command and its transfer, send a page. -/
theorem Refreshing.sendPage {s t u v : State} {d : Arg} {p : Nat} (h : Refreshing s d p p t)
    (select : Transacted t (selectRequest s.par d (s.display d)) u)
    (transfer : Transacted (Machine.handlerReturn u) (pageRequest s.par d (s.display d) p) v) :
    Refreshing s d p (p + 1) v where
  par := transfer.par.trans (select.par.trans h.par)
  routines := transfer.routines.trans (select.routines.trans h.routines)
  display := by rw [State.display, transfer.displays, handlerReturn_displays, select.displays, ← h.display]; rfl
  mem := transfer.mem.trans (select.mem.trans h.mem)
  wireTrace := by
    rw [transfer.wireTrace, handlerReturn_wireTrace, handlerReturn_par, handlerReturn_mem, select.wireTrace, select.par,
      select.mem, h.wireTrace, h.par, h.mem]
    simp [List.range_succ, pageFrames]
  complTrace := by
    rw [transfer.complTrace, handlerReturn_complTrace, select.complTrace, h.complTrace]
    simp [List.range_succ, pageCompletions, selectRequest, pageRequest]
  noLine := transfer.noLine
  outstanding := .inr transfer.outstanding

/-- A refresh is over (rule R183). -/
structure Refreshed (s : State) (d : Arg) (t : State) : Prop where
  wireTrace  : t.wireTrace = s.wireTrace ++ refreshFrames s.par s.mem d (s.display d)
  complTrace : t.complTrace = s.complTrace ++ (List.range (s.display d).pageCount).flatMap fun _ => pageCompletions d
  idle       : t.state = .idle
  ctx        : t.ctx = .main
  noEvent    : t.evPending = false
  display    : t.display d = { s.display d with cursor := (t.display d).cursor, lock := false }

section
variable {s : State} {d : Arg} (metSelect : ContractMet s (selectRequest s.par d (s.display d)))
  (metPage : ∀ p, p < (s.display d).pageCount → ContractMet s (pageRequest s.par d (s.display d) p))
include metSelect metPage

/-- The EVENTs of one page lead from its accepted select-page command to CB.XFER_DONE. -/
theorem events_send_page {t : State} {p : Nat} (h : Refreshing s d p p t) (below : p < (s.display d).pageCount) :
    ∃ v, events ((s.display d).width + 11) (accept (selectRequest s.par d (s.display d)) t)
        = onNext closeWindow (xferDone d v) ∧
      Refreshing s d p (p + 1) v ∧ v.state = .idle ∧ v.evPending = false := by
  obtain ⟨u, selected, select⟩ := events_to_callback (metSelect.congr h.par h.routines) h.outstanding h.noLine
  have par : u.par = s.par := select.par.trans h.par
  have met : ContractMet u (pageRequest s.par d (s.display d) p) :=
    (metPage p below).congr par (select.routines.trans h.routines)
  have atPage : u.display d = { s.display d with cursor := p } := by
    rw [State.display, select.displays, ← h.display]
    rfl
  have chained : events 8 (accept (selectRequest s.par d (s.display d)) t)
      = .next (accept (pageRequest s.par d (s.display d) p) (handlerReturn u)) := by
    refine selected.trans (Eq.trans ?_ (onNext_closeWindow_spin_of_idle met select.idle select.noLine))
    exact congrArg (onNext closeWindow) (par ▸ selectDone_at_page atPage)
  obtain ⟨v, transferred, transfer⟩ :=
    events_to_callback (s := handlerReturn u) (met.congr rfl rfl) (.inr select.outstanding) select.noLine
  refine ⟨v, ?_, h.sendPage select transfer, transfer.idle, transfer.noEvent⟩
  calc events ((s.display d).width + 11) (accept (selectRequest s.par d (s.display d)) t)
      = events (8 + (1 + (s.display d).width + 2)) (accept (selectRequest s.par d (s.display d)) t) := by
        congr 1
        omega
    _ = andThen (events 8 (accept (selectRequest s.par d (s.display d)) t))
          (events (1 + (s.display d).width + 2)) := events_add _ _ _
    _ = events (1 + (s.display d).width + 2) (accept (pageRequest s.par d (s.display d) p) (handlerReturn u)) := by
        rw [chained]
        rfl
    _ = onNext closeWindow (xferDone d v) := transferred

/-- The last page's completion ends the refresh (rule R182). -/
theorem events_send_last_page {t : State} {p : Nat} (h : Refreshing s d p p t)
    (last : p + 1 = (s.display d).pageCount) :
    ∃ v, events ((s.display d).width + 11) (accept (selectRequest s.par d (s.display d)) t) = .next v ∧
      Refreshed s d v := by
  obtain ⟨v, ran, sent, idle, noEvent⟩ := events_send_page metSelect metPage h (by omega)
  rw [xferDone_at_last sent.display last, onNext_closeWindow_of_empty (u := v.setDisplay d _) sent.noLine] at ran
  rw [last] at sent
  refine ⟨_, ran, sent.wireTrace, sent.complTrace, idle, rfl, noEvent, ?_⟩
  have freed : (handlerReturn (v.setDisplay d { s.display d with
      cursor := (s.display d).pageCount, lock := false })).display d = _ := display_setDisplay_same v d _
  rw [freed]

/-- Any other page's completion starts the next page (rule R182). -/
theorem events_send_other_page {t : State} {p : Nat} (h : Refreshing s d p p t)
    (more : p + 1 < (s.display d).pageCount) :
    ∃ v, events ((s.display d).width + 11) (accept (selectRequest s.par d (s.display d)) t)
        = .next (accept (selectRequest s.par d (s.display d)) v) ∧ Refreshing s d (p + 1) (p + 1) v := by
  obtain ⟨v, ran, sent, idle, -⟩ := events_send_page metSelect metPage h (by omega)
  have turned := sent.turnTo (p + 1)
  refine ⟨handlerReturn (turnTo d (p + 1) v), ran.trans ?_, turned.handlerReturn⟩
  rw [xferDone_before_last sent.display more.ne, sent.par]
  exact onNext_closeWindow_spin_of_idle (metSelect.congr turned.par turned.routines) idle turned.noLine

/-- Page after page, the pages that are left are sent. -/
theorem events_send_pages {n : Nat} {t : State} {p : Nat} (h : Refreshing s d p p t)
    (left : p + (n + 1) = (s.display d).pageCount) :
    ∃ v, events ((n + 1) * ((s.display d).width + 11)) (accept (selectRequest s.par d (s.display d)) t) = .next v ∧
      Refreshed s d v := by
  induction n generalizing t p with
  | zero =>
    rw [Nat.zero_add, Nat.one_mul]
    exact events_send_last_page metSelect metPage h left
  | succ n ih =>
    obtain ⟨u, page, turned⟩ := events_send_other_page metSelect metPage h (by omega)
    obtain ⟨v, rest, done⟩ := ih turned (by omega)
    refine ⟨v, ?_, done⟩
    rw [Nat.succ_mul, Nat.add_comm, events_add, page]
    exact rest

end

/-- REFRESH.START turns to page 0 with nothing sent. -/
theorem refreshing_of_start {s : State} {d : Arg} (noCommand : s.cmdq = []) (noLine : s.todo = []) :
    Refreshing s d 0 0 (turnTo d 0 s) where
  par := rfl
  routines := rfl
  display := display_turnTo_same d 0 s
  mem := turnTo_mem d 0 s
  wireTrace := (List.append_nil _).symm
  complTrace := (List.append_nil _).symm
  noLine := noLine
  outstanding := .inl (congrArg (List.map Command.word) noCommand)

/-- Settles O60, by induction on the pages that are left: each page's two transactions chain through their callbacks,
and only the last page's completion submits nothing. -/
theorem refreshSendsEveryPageInOrder : Obligations.RefreshSendsEveryPageInOrder := by
  unfold Obligations.RefreshSendsEveryPageInOrder
  intro s u d idle _ _ noCommand noLine hW hd width pages _ select pfx page ran
  have metSelect := selectRequest_met hW hd select (s.display d)
  have metPage p (below : p < (s.display d).pageCount) := pageRequest_met hW hd width pfx (page p below)
  rw [exec_refreshStart_eq, spin_of_idle (s := turnTo d 0 s) metSelect idle] at ran
  injection ran with ran
  subst ran
  obtain ⟨n, count⟩ := Nat.exists_eq_add_of_le' pages
  obtain ⟨t, sent, done⟩ :=
    events_send_pages metSelect metPage (n := n) (refreshing_of_start noCommand noLine) (by omega)
  rw [← count] at sent
  exact ⟨t, sent, done.wireTrace, done.complTrace, done.idle, done.ctx, done.noEvent, done.display⟩

end Sys2Proof.Machine
end

section
/-!
PROOFS. The handler's move and main-line's moves around it (rules R211, R213, R214): every step keeps the bus engine
contract, the handler's move consumes its event, and the lines of a client procedure do what the procedure does.
-/

namespace Sys2Proof.Machine

/-! ### The event (rules R211, R213, R214) -/

/-- Settles O54: of the moves the bus engine's raises the event it owes, the handler's hands over one command in its
place, and a line submits in Idle alone; the reading of a free value touches none of this. -/
theorem stepKeepsTheBusContract : Obligations.StepKeepsTheBusContract := by
  unfold Obligations.StepKeepsTheBusContract
  intro s t contract ran
  exact step_keeps (fun _ => id) BusContract.moves contract ran

/-- An event step raises no event and takes none: the bus engine raises it, and the handler takes it before. -/
theorem eventStep_evPending {b : BusState} {s t : State} (ran : exec (eventInstr b) s = .next t) :
    t.evPending = s.evPending := by
  cases b with
  | idle | stop => exact (invoke_frame ran).2.2
  | slaveAddress | writePrefix | writeByte =>
    injection ran with ran
    exact ran ▸ rfl

/-- Settles O9: the event is taken before the event step, which ends inside the window it opened. -/
theorem handlerConsumesTheEventAndReturns : Obligations.HandlerConsumesTheEventAndReturns := by
  unfold Obligations.HandlerConsumesTheEventAndReturns
  intro s t ran
  rw [runHandler_eq] at ran
  obtain ⟨u, stepped, rfl⟩ := onNext_next ran
  rw [closeWindow_evPending, closeWindow_todo]
  exact ⟨eventStep_evPending stepped, closeWindow_ctx_main_iff (eventStep_ctx stepped rfl)⟩

/-! ### The lines of a client procedure (rules R175, R180, R184, R211) -/

theorem preemptible_iff (s : State) : preemptible s = true ↔ s.evPending = true ∨ engineReady s = true :=
  Bool.or_eq_true_iff

theorem procedureLines_of_decode {p : Params} {w : PortWord} {i : Instr} (decoded : decode p.widths w = .ok i) :
    procedureLines p (.line w) = partsOf p i := by
  simp only [procedureLines, decoded]

/-- Main-line puts a procedure's lines in its place where the handler can come between them. -/
theorem runMainline_of_preemptible {s : State} {a : HostAct} {rest lines : List HostAct} (next : s.main = a :: rest)
    (interruptible : preemptible s = true) (calls : procedureLines s.par a = some lines) :
    runMainline s = .next { s with main := lines ++ rest } := by
  simp only [runMainline, next, interruptible, if_true, calls]

theorem runLines_cons_of_next {a : HostAct} {s t : State} (ran : runLine a s = .next t) (rest : List HostAct) :
    runLines (a :: rest) s = runLines rest t := by
  simp only [runLines, ran, andThen]

theorem runLines_singleton (a : HostAct) (s : State) : runLines [a] s = runLine a s := by
  rw [runLines]
  cases runLine a s with
  | next t | fault r | refused r => rfl

/-- Assignments that fit are made one after another. -/
theorem runLines_updates {s : State} {d : Arg} (hd : d < 2 ^ s.par.widths.argW) {us : List DisplayUpdate}
    (fit : ∀ u ∈ us, u.fits s.par.widths = true) (rest : List HostAct) :
    runLines (us.map (HostAct.update d) ++ rest) s = runLines rest (us.foldl (fun t u => t.update d u) s) := by
  induction us generalizing s with
  | nil => rfl
  | cons u us ih =>
    have first := runLine_update_of_fits hd (fit u (.head _))
    exact (runLines_cons_of_next first _).trans (ih (s := s.update d u) hd fun v left => fit v (.tail _ left))

/-- The assignments of DISPLAY.INIT (rule R175). -/
def initUpdates (width height : Nat) (fb : Addr) (busAddr : BitVec 8) : List DisplayUpdate :=
  [.width width, .height height, .pageCount (height / 8), .fb fb, .busAddr busAddr, .lock false]

theorem partsOf_displayInit {p : Params} {width height : Nat} {fb : Addr}
    (admitted : displayAdmitted p width height fb = true) (d : Arg) (freq : Nat) (busAddr : BitVec 8) :
    partsOf p (.displayInit d width height fb freq busAddr)
      = some ((initUpdates width height fb busAddr).map (HostAct.update d)
          ++ [.part (.setFreq freq), .part (.initSubmit d busAddr)]) :=
  if_pos admitted

/-- Of the assignments of DISPLAY.INIT only that of the frame buffer reference has a width to fit (rule R28). -/
theorem initUpdates_fit {W : Widths} {fb : Addr} (bound : fb < 2 ^ W.ptrW) (width height : Nat)
    (busAddr : BitVec 8) : ∀ u ∈ initUpdates width height fb busAddr, u.fits W = true := by
  simp [initUpdates, DisplayUpdate.fits, fits_iff, bound]

/-- The assignments of DISPLAY.INIT are one write of the record that they make in turn. -/
theorem setBusFreq_initUpdates (d : Arg) (width height : Nat) (fb : Addr) (freq : Nat) (busAddr : BitVec 8)
    (s : State) :
    ((initUpdates width height fb busAddr).foldl (fun t u => t.update d u) s).setBusFreq freq
      = fillDisplay d width height fb freq busAddr s := by
  have first : s.update d (.width width) = s.setDisplay d { s.display d with width := width } := rfl
  simp only [initUpdates, List.foldl_cons, List.foldl_nil, first, setDisplay_update]
  rfl

theorem runLines_displayInit {s : State} {d : Arg} (hd : d < 2 ^ s.par.widths.argW) {width height : Nat} {fb : Addr}
    (admitted : displayAdmitted s.par width height fb = true) (freq : Nat) (busAddr : BitVec 8) :
    runLines ((initUpdates width height fb busAddr).map (HostAct.update d)
        ++ [.part (.setFreq freq), .part (.initSubmit d busAddr)]) s
      = exec (.displayInit d width height fb freq busAddr) s := by
  have fit := initUpdates_fit (displayAdmitted_fb_lt admitted) width height busAddr
  have operation : exec (.displayInit d width height fb freq busAddr) s
      = initSubmit d busAddr (fillDisplay d width height fb freq busAddr s) := if_pos admitted
  rw [runLines_updates hd fit, runLines_cons_of_next (a := .part (.setFreq freq)) rfl, setBusFreq_initUpdates,
    runLines_singleton, operation]
  rfl

theorem runLines_refreshStart {s : State} {d : Arg} (hd : d < 2 ^ s.par.widths.argW) :
    runLines [.update d (.cursor 0), .part (.patchSelect d), .part (.submitSelect d)] s
      = exec (.refreshStart d) s := by
  rw [runLines_cons_of_next (runLine_update_of_fits hd rfl), runLines_cons_of_next (a := .part (.patchSelect d)) rfl,
    runLines_singleton]
  rfl

/-- With the lock free its one poll claims it, and the patch and the submission follow (rule R184). -/
theorem runLines_brightnessSet {s : State} {d : Arg} (hd : d < 2 ^ s.par.widths.argW)
    (free : (s.display d).lock = false) (level : Byte) :
    runLines [.line (encode s.par.widths (.lockAcquire d)), .part (.patchBright level), .part (.submitBright d)] s
      = exec (.brightnessSet d level) s := by
  have claimed : runLine (.line (encode s.par.widths (.lockAcquire d))) s = .next (claim d s) :=
    (runLine_of_decode rfl (decode_encode_lockAcquire hd)).trans (exec_lockAcquire_of_free free)
  have operation : exec (.brightnessSet d level) s = submitBright d (patchBright level (claim d s)) :=
    if_neg (by simp [free])
  rw [runLines_cons_of_next claimed, runLines_cons_of_next (a := .part (.patchBright level)) rfl, runLines_singleton,
    operation]
  rfl

/-- Settles O7: main-line's move puts the lines in place, and each procedure's lines make its writes in its order and
end with its one submission. -/
theorem procedureRunsLineByLineWhereTheHandlerMayCome :
    Obligations.ProcedureRunsLineByLineWhereTheHandlerMayCome := by
  unfold Obligations.ProcedureRunsLineByLineWhereTheHandlerMayCome
  constructor
  · intro s w rest i lines next interruptible decoded parts
    exact runMainline_of_preemptible next ((preemptible_iff s).2 interruptible)
      ((procedureLines_of_decode decoded).trans parts)
  · intro s d width height fb freq busAddr level hd
    refine ⟨fun multiple low high wide top => ?_, ⟨_, rfl, runLines_refreshStart hd⟩,
      fun free => ⟨_, rfl, runLines_brightnessSet hd free level⟩⟩
    have admitted := (displayAdmitted_iff s.par width height fb).2 ⟨multiple, low, high, wide, top⟩
    exact ⟨_, partsOf_displayInit admitted d freq busAddr, runLines_displayInit hd admitted freq busAddr⟩

end Sys2Proof.Machine
end

section
/-!
PROOFS. The state right after reset (rules R32, R230).
-/

namespace Sys2Proof.Machine

/-- Settles O51: the reset state is a literal record, and each clause reads one of its fields. -/
theorem resetIsIdleAndQuiet : Obligations.ResetIsIdleAndQuiet := by
  unfold Obligations.ResetIsIdleAndQuiet
  exact ⟨rfl, rfl, rfl, rfl, rfl, rfl⟩

end Sys2Proof.Machine
end

section
/-!
PROOFS. The canonical form of host memory and of the display records (logs 4 and 5): every step keeps it.
-/

namespace Sys2Proof.Machine

theorem Canonical.closeWindow {s : State} (h : Canonical s) : Canonical (closeWindow s) := by
  simpa [Canonical] using h

/-- A client callback writes as a host operation does, and a host routine's start writes the work list alone. -/
theorem invoke_canonical {cb : CbId} {arg : Arg} {s t : State} (ran : invoke cb arg s = .next t) (h : Canonical s) :
    Canonical t := by
  obtain ⟨-, effect | ⟨body, -, rfl⟩⟩ := callRoutine_next ran
  · exact effect.canonical h
  · exact h

theorem runLine_canonical {a : HostAct} {s t : State} (ran : runLine a s = .next t) (h : Canonical s) :
    Canonical t := by
  obtain effect | ⟨-, cb, arg, ran⟩ := runLine_effect ran
  · exact effect.canonical h
  · exact invoke_canonical ran h

/-- Of the event steps only a transaction's end can write memory or a record, by its callback (rules R121, R122). -/
theorem eventStep_canonical {b : BusState} {s t : State} (ran : exec (eventInstr b) s = .next t) (h : Canonical s) :
    Canonical t := by
  cases b with
  | idle | stop => exact invoke_canonical (s := s.busStop.setPhase .idle) ran h
  | slaveAddress | writePrefix | writeByte =>
    injection ran with ran
    exact ran ▸ h

theorem Canonical.moves {s t : State} (h : Canonical s) (move : Moves s t) : Canonical t := by
  cases move with
  | engine _ _ ran => obtain rfl | ⟨y, rfl | rfl⟩ := exec_decodeCmd_next ran <;> exact h
  | handler _ _ ran => exact (eventStep_canonical ran h).closeWindow
  | callbackReturn => exact h
  | callbackLine _ _ ran => exact (runLine_canonical ran h).closeWindow
  | mainLine _ _ ran => exact runLine_canonical ran h
  | procedure => exact h

/-- Settles O53: memory and the records are written by the host's operations alone, one entry of the lists at a
time, and a store lies inside the address space. -/
theorem stepKeepsTheCanonicalForm : Obligations.StepKeepsTheCanonicalForm := by
  unfold Obligations.StepKeepsTheCanonicalForm
  intro s t h ran
  exact step_keeps (fun _ => id) Canonical.moves h ran

end Sys2Proof.Machine
end

section
/-!
PROOFS. The reset state (rules R32, R230) as the base case of every invariant of the step.
-/

namespace Sys2Proof.Machine

/-- The request registers are all 0 after reset (log 3). -/
theorem countsFit_reset : CountsFit State.reset := by
  have registers : RegistersFit State.reset := by
    unfold RegistersFit
    decide
  exact (countsFit_iff _).2 ⟨registers, by decide, by decide, rfl, rfl⟩

theorem recordsFit_reset : RecordsFit State.reset :=
  List.forall_mem_nil _

theorem oneCompletionEach_reset : OneCompletionEach State.reset :=
  ⟨rfl, rfl⟩

/-- Settles O52: no byte, record, command, line or symbol is there to break a relation, and the counts are 0. -/
theorem resetMeetsTheInvariants : Obligations.ResetMeetsTheInvariants := by
  unfold Obligations.ResetMeetsTheInvariants
  have canonical : Canonical State.reset := ⟨rfl, rfl⟩
  have contract : BusContract State.reset := ⟨rfl, .inl rfl⟩
  have code : HostCode State.reset := ⟨rfl, rfl, rfl⟩
  have noLine : WindowOpen State.reset := fun _ => rfl
  exact ⟨canonical, contract, countsFit_reset, recordsFit_reset, rfl, code, oneCompletionEach_reset, noLine⟩

end Sys2Proof.Machine
end

section
/-!
PROOFS. The words of the test vectors (spec/95_test_vectors.md) at the default widths.
-/

namespace Sys2Proof

/-- A word that the encodings of rules R71, R73, R76 and R77 give a well-formed operation is read as it. -/
theorem decode_of_encode_default {i : Instr} {w : PortWord} (wellFormed : i.wf Widths.default = true)
    (word : encode Widths.default i = w) : decode Widths.default w = .ok i := by
  subst word
  exact decodeOfEncodeGivesTheOperation Widths.default i (by decide) wellFormed

/-- Settles O3: each word is that of the operation the vector names, and is read back by the round trip of O1. -/
theorem wordsOfTheVectorsAreReadAsTheSpecSays : Obligations.WordsOfTheVectorsAreReadAsTheSpecSays := by
  unfold Obligations.WordsOfTheVectorsAreReadAsTheSpecSays
  and_intros
  all_goals exact decode_of_encode_default (by decide) (by decide)

end Sys2Proof
end
